-- ==== Sys2Proof/Word.lean ====
section
/-! DEFINITION. The bit-vector types of the core (spec/00_scope.md R10, R11; spec/30_encoding.md R59): the remainder and
result width, the message byte and the command word. -/

namespace Sys2Proof

/-- A 16-bit value: the remainder R, the generator constant, RESULT (R10). -/
abbrev Word := BitVec 16

/-- A message byte, the shift register SH, the status word (R10, R32). -/
abbrev Byte := BitVec 8

/-- The command word CW[9:0] = {cmd_op, cmd_data} (R59). -/
abbrev CmdWord := BitVec 10

end Sys2Proof
end

