-- ==== Sys2Proof/Machine/Divider.lean ====
section
/-! DEFINITION. The pure functions of the datapath (spec/40_division.md): the bit step, the byte step, the message fold,
the complement and byte swap, the long-division reference, and the checksum function. Nothing here reads state. -/

namespace Sys2Proof.Machine

/-- POLY, the generator polynomial with its x^16 term left implicit (R10, R77). Hard-wired, not state (R42). -/
def poly : Word := 0x3D65#16

/-- G17, the full 17-bit coefficient vector of g(x) (R77), used by the long-division reference alone. -/
def generator17 : Nat := 0x13D65

/-- INIT, the initial remainder (R10, R88). -/
def initialRemainder : Word := 0x0000#16

/-- XOROUT, the final complement (R10). -/
def xorOut : Word := 0xFFFF#16

/-- swap16(v) = {v[7:0], v[15:8]}: exchange the two bytes (R12). -/
def swap16 (v : Word) : Word := v.extractLsb' 0 8 ++ v.extractLsb' 8 8

/-- The bits of a message byte in the order they are divided, most significant first (R45). -/
def bitsMsbFirst (d : Byte) : List Bool :=
  [d.getLsbD 7, d.getLsbD 6, d.getLsbD 5, d.getLsbD 4, d.getLsbD 3, d.getLsbD 2, d.getLsbD 1, d.getLsbD 0]

/-- DivStep: divide one message bit into the remainder (R78). The feedback bit is R[15] XOR b; the remainder shifts left by
one, dropping bit 15, and POLY is added where the feedback bit is 1. -/
def divStep (r : Word) (b : Bool) : Word :=
  if r.getLsbD 15 ^^ b then (r <<< 1) ^^^ poly else r <<< 1

/-- ByteUpdate: divide the 8 bits of a byte, most significant first (R80). -/
def byteUpdate (r : Word) (d : Byte) : Word := (bitsMsbFirst d).foldl divStep r

/-- MsgFold: fold ByteUpdate over the bytes of a message in order (R81). -/
def msgFold : Word → List Byte → Word
  | r, [] => r
  | r, m :: rest => msgFold (byteUpdate r m) rest

/-- RawCRC(M): the remainder of a message from the initial remainder (R81). -/
def rawCRC (m : List Byte) : Word := msgFold initialRemainder m

/-- The complement step: XOR with all ones (R82). -/
def complement (r : Word) : Word := r ^^^ xorOut

/-- Final: complement, then exchange the bytes, so that the first byte to transmit is in bits 15:8 (R83). -/
def finalWord (r : Word) : Word := swap16 (complement r)

/-- CRC16_EN13757(M), the checksum function of the core (R85). -/
def crc16 (m : List Byte) : Word := finalWord (rawCRC m)

/-- The 8n-bit number whose most significant byte is the first byte of the message (R14). A polynomial over GF(2) is the number
of its coefficients. DEDUCED, safe (notes/assumptions/11.md). -/
def messageNumber (m : List Byte) : Nat := m.foldl (fun v b => v * 256 + b.toNat) 0

/-- The loop of the long division (R84): clear bit 16 + k - 1 down to bit 16 of V, adding the full generator with its
x^16 term aligned to the bit under test. `longDivLoop k v` runs the last k turns. -/
def longDivLoop : Nat → Nat → Nat
  | 0, v => v
  | k + 1, v => longDivLoop k (if v.testBit (k + 16) then v ^^^ (generator17 <<< k) else v)

/-- LongDiv(M), the reference definition: append 16 zero bits to the message, divide, and keep the low 16 bits (R84). -/
def longDiv (m : List Byte) : Word :=
  BitVec.ofNat 16 (longDivLoop (8 * m.length) (messageNumber m <<< 16))

/-- The product over GF(2) of the polynomial of the low `k` bits of `a` and the polynomial of `b` (R14): the sum, by XOR, of `b`
shifted to each bit of `a` that is 1. -/
def polyMul : Nat → Nat → Nat → Nat
  | 0, _, _ => 0
  | k + 1, a, b => polyMul k a b ^^^ (if a.testBit k then b <<< k else 0)

end Sys2Proof.Machine
end

