-- ==== Sys2Proof/Config.lean ====
section
/-! DEFINITION. What the spec leaves free. The one behaviour spec/92_eei_decisions.md leaves free is the value of every state
element before the first reset edge (D4; spec/70_reset_and_hazards.md R142; spec/93_implementation_defined.md U1: "any value").
Each element's draw is an opaque constant of the element's width: nothing can evaluate it.

The core has no configuration of its own: "Fixed parameters of this hardware ... No parameter is left for the model to take as
an argument" (R10). The fixed parameters stand where they are used, in Machine/Divider.lean. -/

namespace Sys2Proof.Config

/-- The remainder register R at power-on, before any reset edge (R142). -/
opaque powerOnR : Word

/-- The shift register SH at power-on (R142). -/
opaque powerOnSh : Byte

/-- The bit counter CNT at power-on: any 4-bit value, "including CNT values 9 to 15" (R142). -/
opaque powerOnCnt : BitVec 4

/-- The flag ACTIVE at power-on (R142). -/
opaque powerOnActive : Bool

/-- The flag DONE at power-on (R142). -/
opaque powerOnDone : Bool

/-- The flag ERR at power-on (R142). -/
opaque powerOnErr : Bool

/-- ERR_CAUSE at power-on; the reserved value 11 may appear here (R142, U3). -/
opaque powerOnErrCause : BitVec 2

/-- RESULT at power-on (R142). -/
opaque powerOnResult : Word

end Sys2Proof.Config
end

