-- ==== Sys2Proof/Syntax.lean ====
section
/-! DEFINITION. The commands of the core, one constructor per row of spec/opcode_table.json, and the assembler's lines of
spec/30_encoding.md R66 to R69. -/

namespace Sys2Proof

/-- The four commands (spec/30_encoding.md R60, R62). Every constructor carries CW[7:0]: the message byte of DATA, and the
reserved field of the other three, which the core ignores (R64). Keeping the reserved field makes a command word and its
command the same information. DESIGN CHOICE, safe (notes/assumptions/5.md). -/
inductive Instr where
  /-- NOP, op = 00: no operation (spec/41_commands.md R100). -/
  | nop (reserved : Byte)
  /-- START, op = 01: open a frame and clear the remainder (R101). -/
  | start (reserved : Byte)
  /-- DATA imm8, op = 10: supply one message byte (R102, R103). -/
  | data (imm8 : Byte)
  /-- FINISH, op = 11: complete the frame and publish the checksum (R104, R105). -/
  | finish (reserved : Byte)
  deriving DecidableEq, Repr

/-- One line of an assembler program (R66, R68, R69). Operands are kept as written: their ranges are checked when the line is
assembled. -/
inductive AsmLine where
  | nop
  | start
  /-- `DATA imm8`. -/
  | data (imm8 : Nat)
  | finish
  /-- The directive `.cw v`: present the raw command word v. -/
  | cw (v : Nat)
  /-- The pseudo-instruction `CRC16 "<hex>"`, with the characters between the quotes. -/
  | crc16 (hex : List Char)
  /-- The pseudo-instruction `WAITDONE`, which emits no command. -/
  | waitDone
  deriving DecidableEq, Repr

/-- The assembly errors: those of R66 and R68, and the model's own `rawOutOfRange` and `badLine`. They are raised by the assembler and never reach the core. -/
inductive AsmError where
  /-- `DATA` with a value outside 0 to 255 (R66). -/
  | immOutOfRange
  /-- `.cw` with a value outside 0x000 to 0x3FF. R66 gives the range and no error. DESIGN CHOICE, safe
  (notes/assumptions/14.md). -/
  | rawOutOfRange
  /-- `CRC16` with an odd digit count or a non-hexadecimal character: "Malformed-Input error" (R68). In a line's
  text a space, a tab or a `;` between the quotes is `badLine` instead: DESIGN CHOICE, safe (notes/assumptions/15.md). -/
  | malformedInput
  /-- A line that is none of the forms of R66, R68 and R69. DESIGN CHOICE, safe (notes/assumptions/8.md, and 15.md for the quotes
  of `CRC16`). -/
  | badLine
  deriving DecidableEq, Repr

end Sys2Proof
end

