-- ==== Sys2Proof/Machine/State.lean ====
section
/-! DEFINITION. The state of the core (spec/10_state.md R21 to R31), the values on its input ports (R33), the reset state
(R39) and the power-on state (spec/70_reset_and_hazards.md R142). -/

namespace Sys2Proof.Machine

/-- The reasons the machine can stop with a fault: none. "None at the bit-algorithm level" (spec/60_exceptions.md R121), a
protocol error "does not stop the core" (R122), and "The core never enters a state from which it cannot continue" (R127). No
one raises a fault; the empty type says so. DEDUCED, safe (notes/assumptions/7.md). -/
inductive Fault
  deriving DecidableEq, Repr

/-- The reasons the model can refuse an instruction. -/
inductive Refusal where
  /-- Raised only by an arm of `exec` for an instruction that has no meaning yet. No arm is left so: every command of
  the opcode table has its meaning. Safe. -/
  | notModelled (mnemonic : String)
  deriving DecidableEq, Repr

/-- The values on the input ports at one rising edge of `clk` (R33). -/
structure PortSample where
  /-- `rst`: synchronous active-high reset. -/
  rst : Bool
  /-- `cmd_valid`: the host presents a command. -/
  valid : Bool
  /-- `cmd_op[1:0]` = CW[9:8]. -/
  op : BitVec 2
  /-- `cmd_data[7:0]` = CW[7:0]. -/
  data : Byte
  deriving DecidableEq, Repr

/-- The ports of a host that presents nothing: `rst = 0`, `cmd_valid = 0`. -/
def PortSample.idle : PortSample := ⟨false, false, 0#2, 0#8⟩

/-- The whole state of the core (R21: "exactly the named elements of rules R23 to R31"), and the outside world's part: the
values its input ports carry at the coming edges. -/
structure State where
  /-- R, the remainder register, 16 bits (R23). -/
  r : Word
  /-- SH, the input byte shift register, 8 bits (R24). -/
  sh : Byte
  /-- CNT, the bit counter, 4 bits (R25). -/
  cnt : BitVec 4
  /-- ACTIVE, a frame is open (R27). -/
  active : Bool
  /-- DONE, RESULT is valid for the latest frame (R28). -/
  done : Bool
  /-- ERR, a protocol error was seen, sticky (R29). -/
  err : Bool
  /-- ERR_CAUSE, the cause of the first protocol error since ERR was last cleared, 2 bits (R30). -/
  errCause : BitVec 2
  /-- RESULT, the checksum result register, 16 bits (R31). -/
  result : Word
  /-- The host's side, not an element of the core: what the input ports carry at the coming rising edges, next edge first.
  After the last entry the ports are idle. DESIGN CHOICE, unsafe (notes/assumptions/1.md). -/
  inputs : List PortSample
  deriving DecidableEq, Repr

/-- The state right after a reset edge (R39, R141). The host's list is empty: it presents nothing. DESIGN CHOICE, unsafe (notes/assumptions/1.md). -/
def State.reset : State where
  r := 0x0000#16
  sh := 0x00#8
  cnt := 0#4
  active := false
  done := false
  err := false
  errCause := 0b00#2
  result := 0x0000#16
  inputs := []

/-- The state before the first reset edge: every element holds a draw of its width (R142), under a host that will drive the
ports with `inputs`. Safe (notes/assumptions/4.md). -/
def State.powerOn (inputs : List PortSample) : State where
  r := Config.powerOnR
  sh := Config.powerOnSh
  cnt := Config.powerOnCnt
  active := Config.powerOnActive
  done := Config.powerOnDone
  err := Config.powerOnErr
  errCause := Config.powerOnErrCause
  result := Config.powerOnResult
  inputs := inputs

end Sys2Proof.Machine
end

