-- ==== Sys2Proof/Machine/Flags.lean ====
section
/-! DEFINITION. The flags of the core: BUSY (spec/10_state.md R26), the cause codes (R30, spec/60_exceptions.md R123) and
the writers of ACTIVE, DONE, ERR and ERR_CAUSE (R37). -/

namespace Sys2Proof.Machine

/-- BUSY = (CNT != 0): not stored (R26). -/
def State.busy (s : State) : Bool := s.cnt != 0#4

/-- ERR_CAUSE 00: no error. -/
def causeNone : BitVec 2 := 0b00#2

/-- ERR_CAUSE 01, DATA_IDLE: DATA accepted while ACTIVE = 0 (R123). -/
def causeDataIdle : BitVec 2 := 0b01#2

/-- ERR_CAUSE 10, FINISH_IDLE: FINISH accepted while ACTIVE = 0 (R123). -/
def causeFinishIdle : BitVec 2 := 0b10#2

/-- The flags START writes: ACTIVE = 1, DONE = 0, ERR = 0, ERR_CAUSE = 00 (R101). -/
def State.startFlags (s : State) : State :=
  { s with active := true, done := false, err := false, errCause := causeNone }

/-- The flags FINISH writes while ACTIVE = 1: DONE = 1, ACTIVE = 0 (R104). -/
def State.finishFlags (s : State) : State := { s with done := true, active := false }

/-- The flags a protocol error writes: ERR = 1, and ERR_CAUSE only if ERR was 0 before the edge, so that the first error wins
(R122). -/
def State.errorFlags (cause : BitVec 2) (s : State) : State :=
  { s with err := true, errCause := if s.err then s.errCause else cause }

end Sys2Proof.Machine
end

