-- ==== Sys2Proof/WellFormed.lean ====
section
/-! DEFINITION. Well-formed commands and assembler lines (spec/30_encoding.md R63, R64, R66, R68). -/

namespace Sys2Proof

/-- Every term of `Instr` is a legal command: "No command word is illegal and none causes an encoding fault" (R63), and the
reserved field is ignored whatever it holds (R64). The widths of the fields are in the types. -/
def Instr.wellFormed : Instr → Bool
  | .nop _ => true
  | .start _ => true
  | .data _ => true
  | .finish _ => true

/-- The form an assembler mnemonic emits: the reserved field of NOP, START and FINISH is zero ("Assemblers emit 0x00", R64).
A command that is not canonical still runs, and only `.cw` writes it (R66). -/
def Instr.canonical : Instr → Bool
  | .nop reserved => reserved == 0x00#8
  | .start reserved => reserved == 0x00#8
  | .data _ => true
  | .finish reserved => reserved == 0x00#8

/-- A hexadecimal digit of either case (R68). -/
def isHexDigit (c : Char) : Bool :=
  ('0' ≤ c && c ≤ '9') || ('a' ≤ c && c ≤ 'f') || ('A' ≤ c && c ≤ 'F')

/-- The ranges R66 and R68 give the operands of an assembler line. That a `.cw` operand out of its range is refused is a DESIGN
CHOICE, safe (notes/assumptions/14.md). -/
def AsmLine.wellFormed : AsmLine → Bool
  | .nop => true
  | .start => true
  | .data imm8 => imm8 ≤ 255
  | .finish => true
  | .cw v => v ≤ 0x3FF
  | .crc16 hex => hex.length % 2 == 0 && hex.all isHexDigit
  | .waitDone => true

end Sys2Proof
end

