-- ==== Sys2Proof/Decode.lean ====
section
/-! DEFINITION. The decoder and the encoder of the command word (spec/30_encoding.md R59 to R65). Decode is total on the 1024
command words; a number wider than ten bits is no command word and is rejected by name. -/

namespace Sys2Proof

/-- The field op = CW[9:8] (R59). -/
def opField (w : CmdWord) : BitVec 2 := w.extractLsb' 8 2

/-- The field data = CW[7:0] (R59), the operand imm8 of DATA: "No bits are gathered, extended or scaled" (R61). -/
def dataField (w : CmdWord) : Byte := w.extractLsb' 0 8

/-- A command word from its two fields: CW = {cmd_op, cmd_data} (R99). -/
def joinFields (op : BitVec 2) (data : Byte) : CmdWord := op ++ data

/-- The decoder (R60, R62): "Every word decodes to exactly one row." -/
def decodeWord (w : CmdWord) : Instr :=
  if opField w = 0b00#2 then .nop (dataField w)
  else if opField w = 0b01#2 then .start (dataField w)
  else if opField w = 0b10#2 then .data (dataField w)
  else .finish (dataField w)

/-- Why a number is no command. -/
inductive DecodeError where
  /-- The number needs more than the ten bits of a command word (R59). The command port is ten bits wide, so no host can
  present such a number; safe. -/
  | notACommandWord
  deriving DecidableEq, Repr

/-- The decoder on any number: its bits are CW[9:0], and a number of more than ten bits is rejected by name. -/
def decodeBits (v : Nat) : Except DecodeError Instr :=
  if v < 1024 then .ok (decodeWord (BitVec.ofNat 10 v)) else .error .notACommandWord

/-- The instruction read from an opcode-table word of `nbits` bits. The table's bit 0 is CW[0] (spec/opcode_table.json,
encoding column); every bit at or above `nbits` is zero. DEDUCED, safe (notes/assumptions/6.md). -/
def decodeTableWord (nbits w : Nat) : Option Instr :=
  match decodeBits (w % 2 ^ nbits) with
  | .ok i => some i
  | .error _ => none

/-- The operation code of a command (R60). -/
def Instr.op : Instr → BitVec 2
  | .nop _ => 0b00#2
  | .start _ => 0b01#2
  | .data _ => 0b10#2
  | .finish _ => 0b11#2

/-- The data field CW[7:0] of a command. -/
def Instr.field : Instr → Byte
  | .nop reserved => reserved
  | .start reserved => reserved
  | .data imm8 => imm8
  | .finish reserved => reserved

/-- The encoder (R59, R60): the command word of a command. -/
def encode (i : Instr) : CmdWord := joinFields i.op i.field

end Sys2Proof
end

