-- ==== Sys2Proof/Machine/Operands.lean ====
section
/-! DEFINITION. The operand forms of the core: the command word on the ports (spec/41_commands.md R99), the message byte
held in SH and its next bit (spec/10_state.md R24), and the host's list of coming port values. -/

namespace Sys2Proof.Machine

/-- CW = {cmd_op, cmd_data}, the command word on the ports (R99). -/
def PortSample.word (p : PortSample) : CmdWord := joinFields p.op p.data

/-- The ports of a host that presents the command word `w` with `cmd_valid = 1` and `rst = 0` (R33). -/
def PortSample.present (w : CmdWord) : PortSample := ⟨false, true, opField w, dataField w⟩

/-- What the input ports carry at the next rising edge. -/
def State.port (s : State) : PortSample := s.inputs.headD .idle

/-- The state once the host has moved on to the port values of the edge after the next. -/
def State.popInput (s : State) : State := { s with inputs := s.inputs.tail }

/-- The state with another host: `ps` are the port values of the coming edges. -/
def State.withInputs (s : State) (ps : List PortSample) : State := { s with inputs := ps }

/-- SH[7], the next message bit (R24). -/
def State.nextBit (s : State) : Bool := s.sh.getLsbD 7

/-- SH shifted left by one, with 0 in bit 0: {SH[6:0], 0} (R24, R111). -/
def shiftByte (sh : Byte) : Byte := sh.extractLsb' 0 7 ++ 0#1

end Sys2Proof.Machine
end

