-- ==== Sys2Proof/Machine/Ops.lean ====
section
/-! DEFINITION. The shared operations on the state: raising a protocol error, the core's analogue of taking an exception
(spec/60_exceptions.md R122), and the register updates of the command and edge rules (spec/41_commands.md R100 to R111;
spec/70_reset_and_hazards.md R141). The core has no memory (spec/20_memory.md R46). -/

namespace Sys2Proof.Machine

/-- ProtocolError(cause), the core's one exception (R122): the flags, and "no other state changes". There are no traps: no
saved state, no vector, no mode (R127). Its "return" is the next START or reset (R128), `startFrame` and `resetEdge`. -/
def protocolError (cause : BitVec 2) (s : State) : State := s.errorFlags cause

/-- START: clear the remainder and write the flags; SH, CNT and RESULT stay (R101). -/
def startFrame (s : State) : State := { s.startFlags with r := initialRemainder }

/-- DATA while ACTIVE: load the byte and set the bit counter to 8; no bit is divided at this edge (R102). -/
def loadByte (imm8 : Byte) (s : State) : State := { s with sh := imm8, cnt := 8#4 }

/-- FINISH while ACTIVE: RESULT takes Final(R); R stays (R104). -/
def publishResult (s : State) : State := { s.finishFlags with result := finalWord s.r }

/-- The bit-division edge: divide SH[7] into R, shift SH, count down (R111). -/
def divideEdge (s : State) : State :=
  { s with r := divStep s.r s.nextBit, sh := shiftByte s.sh, cnt := s.cnt - 1#4 }

/-- The reset edge: every element of the core takes its reset value; the host's coming port values are its own (R141). -/
def resetEdge (s : State) : State := State.reset.withInputs s.inputs

/-- The state in which the command word `w` is on the ports at the next edge and the core accepts it there: `cmd_valid = 1`,
`rst = 0` and CNT = 0 (R99). The rest of the state stays. -/
def presentNext (s : State) (w : CmdWord) : State :=
  { s with cnt := 0#4, inputs := .present w :: s.inputs.tail }

end Sys2Proof.Machine
end

