-- ==== Sys2Proof/Machine/Commands.lean ====
section
/-! DEFINITION. The meanings of the four commands (spec/41_commands.md R100 to R105): what each does to the state at the edge
that accepts it. -/

namespace Sys2Proof.Machine

/-- NOP (R100): no state changes, in IDLE and in ACTIVE alike; CW[7:0] is ignored. -/
def execNop (_reserved : Byte) (s : State) : Host.Outcome State Fault Refusal :=
  .next s

/-- START (R101): open a frame and clear the remainder, whatever the state; CW[7:0] is ignored. -/
def execStart (_reserved : Byte) (s : State) : Host.Outcome State Fault Refusal :=
  .next (startFrame s)

/-- DATA imm8: supply a byte while ACTIVE = 1 (R102); a protocol error DATA_IDLE while ACTIVE = 0 (R103). -/
def execData (imm8 : Byte) (s : State) : Host.Outcome State Fault Refusal :=
  if s.active then .next (loadByte imm8 s) else .next (protocolError causeDataIdle s)

/-- FINISH: publish the checksum while ACTIVE = 1 (R104); a protocol error FINISH_IDLE while ACTIVE = 0 (R105). CW[7:0] is
ignored. -/
def execFinish (_reserved : Byte) (s : State) : Host.Outcome State Fault Refusal :=
  if s.active then .next (publishResult s) else .next (protocolError causeFinishIdle s)

end Sys2Proof.Machine
end

