-- ==== Sys2Proof/Machine/Dispatch.lean ====
section
/-! DEFINITION. One arm per command (spec/41_commands.md R99: the core "decodes op by 30_encoding.md rule R62, and applies the
rule of that op"). -/

namespace Sys2Proof.Machine

def exec (i : Instr) (s : State) : Host.Outcome State Fault Refusal :=
  match i with
  | .nop reserved => Sys2Proof.Machine.execNop reserved s
  | .start reserved => Sys2Proof.Machine.execStart reserved s
  | .data imm8 => Sys2Proof.Machine.execData imm8 s
  | .finish reserved => Sys2Proof.Machine.execFinish reserved s

end Sys2Proof.Machine
end

