-- ==== Sys2Proof/Machine/Ports.lean ====
section
/-! DEFINITION. The output ports of the core and the acceptance condition (spec/10_state.md R32 to R36; spec/41_commands.md
R99). Every output but `cmd_ready` reads the state elements alone. -/

namespace Sys2Proof.Machine

/-- The status word: bit 0 BUSY, 1 ACTIVE, 2 DONE, 3 ERR, 5:4 ERR_CAUSE, 7:6 always 0 (R32). -/
def State.statusWord (s : State) : Byte :=
  0b00#2 ++ s.errCause ++ BitVec.ofBool s.err ++ BitVec.ofBool s.done ++ BitVec.ofBool s.active ++ BitVec.ofBool s.busy

/-- `res_word[15:0]` = RESULT (R34). -/
def State.resWord (s : State) : Word := s.result

/-- The first checksum byte to transmit, `res_word[15:8]` (R34, R47). -/
def State.firstByte (s : State) : Byte := s.resWord.extractLsb' 8 8

/-- The second checksum byte to transmit, `res_word[7:0]` (R34, R47). -/
def State.secondByte (s : State) : Byte := s.resWord.extractLsb' 0 8

/-- The one-bit ports `busy`, `active`, `done`, `err`, in this order: copies of status bits 0 to 3 (R34). -/
def State.flagPorts (s : State) : Bool × Bool × Bool × Bool := (s.busy, s.active, s.done, s.err)

/-- `cmd_ready` = (CNT = 0) AND (rst = 0), for a given value of the input ports (R35). -/
def readyAt (p : PortSample) (s : State) : Bool := !s.busy && !p.rst

/-- `cmd_ready` before the next edge (R35). -/
def State.cmdReady (s : State) : Bool := readyAt s.port s

/-- The acceptance condition: `rst = 0`, CNT = 0 and `cmd_valid = 1` (R99). -/
def accepts (p : PortSample) (s : State) : Bool := readyAt p s && p.valid

/-- The command the core accepts at an edge with port values `p`, if it accepts one (R99). -/
def acceptedCommand (p : PortSample) (s : State) : Option Instr :=
  if accepts p s then some (decodeWord p.word) else none

end Sys2Proof.Machine
end

