-- ==== Sys2Proof/Machine/Edge.lean ====
section
/-! DEFINITION. The clock-edge rule (spec/41_commands.md R110) and the command-level abstraction (R112). -/

namespace Sys2Proof.Machine

/-- One rising edge with port values `p`: "The three branches are exclusive and tried in this order" (R110): reset, a
bit-division edge, an accepted command; else nothing changes. -/
def clockEdge (p : PortSample) (s : State) : Host.Outcome State Fault Refusal :=
  if p.rst then .next (resetEdge s)
  else if s.busy then .next (divideEdge s)
  else if p.valid then exec (decodeWord p.word) s
  else .next s

/-- One step of the machine: the next rising edge, with the port values the host has for it. Edges are the model's only
moments. DEDUCED, safe (notes/assumptions/9.md). -/
def clockStep (s : State) : Host.Outcome State Fault Refusal := clockEdge s.port s.popInput

/-- The commands accepted over a sequence of edges, in order (R112: "list its accepted commands in order"). -/
def acceptedCommands : List PortSample → State → List Instr
  | [], _ => []
  | p :: ps, s =>
    (acceptedCommand p s).toList ++
      (match clockEdge p s with
       | .next t => acceptedCommands ps t
       | .fault _ => []
       | .refused _ => [])

/-- AStep(s, cmd): a whole command as one atomic step. DATA while ACTIVE divides its byte at once and leaves SH = 0x00 and
CNT = 0 (R112). -/
def aStep (s : State) : Instr → State
  | .nop _ => s
  | .start _ => startFrame s
  | .data imm8 =>
    if s.active then { s with r := byteUpdate s.r imm8, sh := 0x00#8, cnt := 0#4 } else protocolError causeDataIdle s
  | .finish _ => if s.active then publishResult s else protocolError causeFinishIdle s

/-- AStep over a list of commands. -/
def aRun (s : State) (cmds : List Instr) : State := cmds.foldl aStep s

end Sys2Proof.Machine
end

