-- ==== Sys2Proof/Machine/Step.lean ====
section
/-! DEFINITION. The step of the machine, one rising edge of `clk` (spec/41_commands.md R110), and the state in which a given
opcode-table word is the next command the core accepts. -/

namespace Sys2Proof.Machine

/-- One rising edge of `clk` (R110). -/
def step (s : State) : Host.Outcome State Fault Refusal := Sys2Proof.Machine.clockStep s

/-- The state in which the host presents the opcode-table word `w` at the next edge and the core accepts it
(notes/assumptions/2.md, notes/assumptions/3.md). DESIGN CHOICE, unsafe. -/
def State.withFetchWord (s : State) (nbits w : Nat) : State :=
  Sys2Proof.Machine.presentNext s (BitVec.ofNat 10 (w % 2 ^ nbits))

end Sys2Proof.Machine
end

