-- ==== Sys2Proof/Machine/Assembler.lean ====
section
/-! DEFINITION. The assembler of spec/30_encoding.md R66 to R69: the command words a line stands for, and the reading of a
line's text. It is host-side notation and has no effect on the core (spec/92_eei_decisions.md D24). -/

namespace Sys2Proof.Machine

/-- The value of a hexadecimal digit of either case (R68). -/
def hexDigitValue (c : Char) : Option Nat :=
  let n := c.toNat
  if 48 ≤ n ∧ n ≤ 57 then some (n - 48)
  else if 97 ≤ n ∧ n ≤ 102 then some (n - 87)
  else if 65 ≤ n ∧ n ≤ 70 then some (n - 55)
  else none

/-- The value of a decimal digit (R66). -/
def decDigitValue (c : Char) : Option Nat :=
  let n := c.toNat
  if 48 ≤ n ∧ n ≤ 57 then some (n - 48) else none

/-- The bytes a hexadecimal string spells, two digits a byte, high digit first; none on an odd digit count or a character that
is no hexadecimal digit (R68). -/
def decodeHex : List Char → Option (List Byte)
  | [] => some []
  | [_] => none
  | h :: l :: rest =>
    match hexDigitValue h, hexDigitValue l, decodeHex rest with
    | some a, some b, some m => some (BitVec.ofNat 8 (16 * a + b) :: m)
    | _, _, _ => none

/-- The command words a line emits (R66 to R69). The error of `.cw` above 0x3FF: DESIGN CHOICE, safe (notes/assumptions/14.md). -/
def assembleLine : AsmLine → Except AsmError (List CmdWord)
  | .nop => .ok [encode (.nop 0x00#8)]
  | .start => .ok [encode (.start 0x00#8)]
  | .data imm8 => if imm8 ≤ 255 then .ok [encode (.data (BitVec.ofNat 8 imm8))] else .error .immOutOfRange
  | .finish => .ok [encode (.finish 0x00#8)]
  | .cw v => if v ≤ 0x3FF then .ok [BitVec.ofNat 10 v] else .error .rawOutOfRange
  | .crc16 hex =>
    match decodeHex hex with
    | some m => .ok (encode (.start 0x00#8) :: (m.map fun b => encode (.data b)) ++ [encode (.finish 0x00#8)])
    | none => .error .malformedInput
  | .waitDone => .ok []

/-- The command words of a program: "a list of commands presented in order" (R66). -/
def assemble : List AsmLine → Except AsmError (List CmdWord)
  | [] => .ok []
  | l :: rest =>
    match assembleLine l, assemble rest with
    | .ok ws, .ok more => .ok (ws ++ more)
    | .error e, _ => .error e
    | _, .error e => .error e

/-- The number a digit string spells in base `b`, from the value `acc` of the digits before it. -/
def digitsValue (b : Nat) (digit : Char → Option Nat) : Nat → List Char → Option Nat
  | acc, [] => some acc
  | acc, c :: rest =>
    match digit c with
    | some d => digitsValue b digit (acc * b + d) rest
    | none => none

/-- A number "written in hexadecimal with the prefix 0x or in decimal": R66 says so of imm8. For the operand of `.cw`, whose form
R66 leaves open, see `parseLine`. -/
def parseNumber : List Char → Option Nat
  | [] => none
  | ['0', 'x'] => none
  | '0' :: 'x' :: ds => digitsValue 16 hexDigitValue 0 ds
  | ds => digitsValue 10 decDigitValue 0 ds

/-- A small letter's capital; every other character itself. "Mnemonics are case-insensitive" (R66). -/
def capital (c : Char) : Char :=
  if 97 ≤ c.toNat ∧ c.toNat ≤ 122 then Char.ofNat (c.toNat - 32) else c

/-- The text before a comment: "`;` starts a comment that runs to the end of the line" (R66). It does so between the quotes of
`CRC16` too: DESIGN CHOICE, safe (notes/assumptions/15.md). -/
def stripComment (text : List Char) : List Char := text.takeWhile (· != ';')

/-- The words of a line, separated by spaces and tabs; `word` holds the characters of the word being read, last first.
DESIGN CHOICE, safe (notes/assumptions/8.md); that quotes do not hold a word together: DESIGN CHOICE, safe
(notes/assumptions/15.md). -/
def splitWords : List Char → List Char → List (List Char)
  | word, [] => if word.isEmpty then [] else [word.reverse]
  | word, c :: rest =>
    if c == ' ' || c == '\t' then
      (if word.isEmpty then splitWords [] rest else word.reverse :: splitWords [] rest)
    else splitWords (c :: word) rest

/-- The text between two double quotes. -/
def unquote : List Char → Option (List Char)
  | '"' :: rest => if rest.getLast? == some '"' then some rest.dropLast else none
  | _ => none

/-- A line of text as an assembler line (R66, R68, R69): `none` for a line that holds a comment or nothing. R66 gives the number
form, hexadecimal or decimal, for imm8 only, and writes the operand of `.cw` as 0x000 to 0x3FF; reading it in the same two
forms, decimal included, is a DESIGN CHOICE, safe (notes/assumptions/14.md). What separates words and what an
unreadable line is: DESIGN CHOICE, safe (notes/assumptions/8.md). The line is cut before its quotes are read, so a space, a tab
or a `;` between the quotes of `CRC16` makes the line a `badLine`, and every other non-hexadecimal character there is R68's
`malformedInput`: DESIGN CHOICE, safe (notes/assumptions/15.md). -/
def parseLine (text : List Char) : Except AsmError (Option AsmLine) :=
  match splitWords [] (stripComment text) with
  | [] => .ok none
  | [m] =>
    if m.map capital = ['N', 'O', 'P'] then .ok (some .nop)
    else if m.map capital = ['S', 'T', 'A', 'R', 'T'] then .ok (some .start)
    else if m.map capital = ['F', 'I', 'N', 'I', 'S', 'H'] then .ok (some .finish)
    else if m.map capital = ['W', 'A', 'I', 'T', 'D', 'O', 'N', 'E'] then .ok (some .waitDone)
    else .error .badLine
  | [m, a] =>
    if m.map capital = ['D', 'A', 'T', 'A'] then
      match parseNumber a with
      | some n => .ok (some (.data n))
      | none => .error .badLine
    else if m.map capital = ['.', 'C', 'W'] then
      match parseNumber a with
      | some n => .ok (some (.cw n))
      | none => .error .badLine
    else if m.map capital = ['C', 'R', 'C', '1', '6'] then
      match unquote a with
      | some hex => .ok (some (.crc16 hex))
      | none => .error .badLine
    else .error .badLine
  | _ => .error .badLine

/-- The command words of a program given as lines of text: "One command per line" (R66). -/
def assembleText : List (List Char) → Except AsmError (List CmdWord)
  | [] => .ok []
  | text :: rest =>
    match parseLine text, assembleText rest with
    | .ok none, .ok more => .ok more
    | .ok (some l), .ok more =>
      match assembleLine l with
      | .ok ws => .ok (ws ++ more)
      | .error e => .error e
    | .error e, _ => .error e
    | .ok _, .error e => .error e

end Sys2Proof.Machine
end

