-- ==== Sys2Proof/Machine/HostSide.lean ====
section
/-! DEFINITION. The host's side of the handshake (spec/60_exceptions.md R135; spec/70_reset_and_hazards.md R144, R145, R150):
a host that holds each command until it is accepted, the frames it presents, and the
conditions it reads a result under (R146, R152). -/

namespace Sys2Proof.Machine

/-- The ports of a host that presents the first of its remaining command words, or nothing when none is left. -/
def presentHead : List CmdWord → PortSample
  | [] => .idle
  | w :: _ => .present w

/-- The port values of `k` edges under a host that presents the words in order, each held until it is accepted, the next one
at the first edge it can be accepted (R145, R150). DEDUCED, safe (notes/assumptions/10.md). -/
def heldSamples : Nat → List CmdWord → State → List PortSample
  | 0, _, _ => []
  | k + 1, ws, s =>
    presentHead ws ::
      (match clockEdge (presentHead ws) s with
       | .next t => heldSamples k (if accepts (presentHead ws) s then ws.tail else ws) t
       | .fault _ => []
       | .refused _ => [])

/-- The ports of a host that asserts `rst`; what it drives on the command port does not matter (R141). -/
def PortSample.resetting : PortSample := ⟨true, false, 0#2, 0#8⟩

/-- The command words of one frame: START, one DATA per message byte, FINISH (R116; spec/30_encoding.md R68). -/
def frameWords (m : List Byte) : List CmdWord :=
  encode (.start 0x00#8) :: (m.map fun b => encode (.data b)) ++ [encode (.finish 0x00#8)]

/-- The run of a frame is over: CNT = 0, ACTIVE = 0, and DONE = 1 or ERR = 1 (R152). -/
def State.frameOver (s : State) : Bool := !s.busy && !s.active && (s.done || s.err)

/-- The host's wait `WAITDONE` is over: `done = 1` or `err = 1` (spec/30_encoding.md R69). -/
def State.waitOver (s : State) : Bool := s.done || s.err

/-- The host may treat `res_word` as this frame's checksum: `done = 1` and `err = 0` (R135, R146). -/
def State.resultUsable (s : State) : Bool := s.done && !s.err

end Sys2Proof.Machine
end

