-- ==== Sys2Proof/Safety.lean ====
section
/-! DEFINITION. The terms claims about a run are stated in: the invariants of spec/10_state.md R40, runs over given port
values, and the frames of spec/41_commands.md R113. -/

namespace Sys2Proof.Machine

/-- The invariants R40 (a) to (g) of every state reached from a reset. -/
structure State.Inv (s : State) : Prop where
  /-- (a) 0 <= CNT <= 8. -/
  cnt_le : s.cnt.toNat ≤ 8
  /-- (b) CNT != 0 implies ACTIVE = 1. -/
  busy_active : s.cnt ≠ 0#4 → s.active = true
  /-- (c) DONE = 1 implies ACTIVE = 0. -/
  done_idle : s.done = true → s.active = false
  /-- (d) ERR = 0 if and only if ERR_CAUSE = 00. -/
  err_cause : s.err = false ↔ s.errCause = 0b00#2
  /-- (e) ERR_CAUSE != 11. -/
  cause_legal : s.errCause ≠ 0b11#2
  /-- (f) SH[7-CNT:0] = 0: the low 8 - CNT bits of SH are zero, all of them when CNT = 0. -/
  sh_low : ∀ i, i + s.cnt.toNat < 8 → s.sh.getLsbD i = false
  /-- (g) ACTIVE = 1 implies DONE = 0 and ERR = 0. -/
  active_clean : s.active = true → s.done = false ∧ s.err = false

/-- No edge among `ps` is a reset edge. -/
abbrev noReset (ps : List PortSample) : Prop := ∀ p ∈ ps, p.rst = false

/-- The machine run over one edge per entry of `ps`, from `s`, under a host that drives the ports with `ps`. -/
def runPorts (ps : List PortSample) (s : State) : Host.Outcome State Fault Refusal :=
  Host.Core.run Sys2Proof.core ps.length (s.withInputs ps)

/-- The commands of one frame with message `m`, whatever the reserved fields of START and FINISH, once the NOPs that may stand
between them are taken out (R113). -/
def isFrame (m : List Byte) (cmds : List Instr) : Prop :=
  ∃ a b : Byte, cmds.filter (fun i => i.op != 0b00#2) = Instr.start a :: m.map Instr.data ++ [Instr.finish b]

end Sys2Proof.Machine
end

