-- ==== Sys2Proof/Certificates/Slice0/Obligations.lean ====
section
/-! DEFINITION. The statements about the model, one definition each. Every docstring names the rule of spec/ it formalises, or
the sections it rests on. -/

open Sys2Proof Sys2Proof.Machine

/-! ## Reset, the step, the edge rule -/

/-- R141, R143, R39: an edge with `rst = 1` sets every element to its reset value, whatever frame or byte was open, accepts
nothing and is not ready; holding `rst` keeps the reset state; the first edge with `rst = 0` may accept a command, and
without one the core waits. -/
def Obligations.ResetEdgeSetsEveryElement : Prop :=
  (∀ s : State, s.port.rst = true →
    s.cmdReady = false ∧ acceptedCommand s.port s = none ∧
    step s = .next { r := 0x0000#16, sh := 0x00#8, cnt := 0#4, active := false, done := false, err := false,
                     errCause := 0b00#2, result := 0x0000#16, inputs := s.inputs.tail }) ∧
  (∀ (s : State) (ps : List PortSample), ps ≠ [] → (∀ p ∈ ps, p.rst = true) → runPorts ps s = .next State.reset) ∧
  (∀ p : PortSample, p.rst = false → p.valid = true → acceptedCommand p State.reset = some (decodeWord p.word)) ∧
  (∀ ps : List PortSample, (∀ p ∈ ps, p.rst = false ∧ p.valid = false) → runPorts ps State.reset = .next State.reset)

/-- R99: a command is accepted exactly when `rst = 0`, CNT = 0 and `cmd_valid = 1`; the step then runs the command decoded from
CW = {cmd_op, cmd_data}, with the host moved on by one edge, and an edge that accepts nothing applies no command rule. -/
def Obligations.StepRunsTheDecodedCommand : Prop :=
  ∀ s : State,
    (acceptedCommand s.port s ≠ none ↔ s.port.rst = false ∧ s.cnt = 0#4 ∧ s.port.valid = true) ∧
    (∀ i, acceptedCommand s.port s = some i →
      i = decodeWord (s.port.op ++ s.port.data) ∧ step s = exec i { s with inputs := s.inputs.tail }) ∧
    (acceptedCommand s.port s = none →
      step s = .next (if s.port.rst then resetEdge s.popInput else if s.busy then divideEdge s.popInput else s.popInput))

/-- R110: the complete clock-edge rule, branch by branch. -/
def Obligations.ClockEdgeRule : Prop :=
  ∀ s : State, step s = .next
    (if s.port.rst = true then
       { r := 0x0000#16, sh := 0x00#8, cnt := 0#4, active := false, done := false, err := false, errCause := 0b00#2,
         result := 0x0000#16, inputs := s.inputs.tail }
     else if s.cnt ≠ 0#4 then
       { s with r := divStep s.r (s.sh.getLsbD 7), sh := s.sh.extractLsb' 0 7 ++ 0#1, cnt := s.cnt - 1#4,
                inputs := s.inputs.tail }
     else if s.port.valid = true then
       if s.port.op = 0b00#2 then { s with inputs := s.inputs.tail }
       else if s.port.op = 0b01#2 then
         { s with r := 0x0000#16, active := true, done := false, err := false, errCause := 0b00#2,
                  inputs := s.inputs.tail }
       else if s.port.op = 0b10#2 then
         if s.active then { s with sh := s.port.data, cnt := 8#4, inputs := s.inputs.tail }
         else { s with err := true, errCause := if s.err then s.errCause else 0b01#2, inputs := s.inputs.tail }
       else
         if s.active then { s with result := finalWord s.r, done := true, active := false, inputs := s.inputs.tail }
         else { s with err := true, errCause := if s.err then s.errCause else 0b10#2, inputs := s.inputs.tail }
     else { s with inputs := s.inputs.tail })

/-- Every command completes in every state, and every number of edges from every state reaches a next state: the core "never
enters a state from which it cannot continue" (60_exceptions.md section 3). -/
def Obligations.EveryEdgeAndCommandCompletes : Prop :=
  (∀ (i : Instr) (s : State), ∃ t, exec i s = .next t) ∧
  (∀ (n : Nat) (s : State), ∃ t, Host.Core.run Sys2Proof.core n s = .next t)

/-- R126: reset beats a bit-division edge and a presented command; a pending bit-division beats a presented command; else a
presented command is accepted. A command raises at most one cause, and the first one's cause is kept. -/
def Obligations.PriorityAtOneEdge : Prop :=
  (∀ (s u : State) (p q : PortSample) (ps : List PortSample), p.rst = true → q.rst = true →
    acceptedCommand p s = none ∧ step (s.withInputs (p :: ps)) = step (u.withInputs (q :: ps))) ∧
  (∀ (s : State) (p q : PortSample) (ps : List PortSample), s.cnt ≠ 0#4 → p.rst = false → q.rst = false →
    readyAt p s = false ∧ acceptedCommand p s = none ∧
    step (s.withInputs (p :: ps)) = step (s.withInputs (q :: ps)) ∧
    step (s.withInputs (p :: ps)) = .next (divideEdge (s.withInputs ps))) ∧
  (∀ (s : State) (p : PortSample) (ps : List PortSample), s.cnt = 0#4 → p.rst = false → p.valid = true →
    acceptedCommand p s = some (decodeWord p.word) ∧
    step (s.withInputs (p :: ps)) = exec (decodeWord p.word) (s.withInputs ps)) ∧
  (∀ (i : Instr) (s t : State), exec i s = .next t → s.err = true → t.err = true → t.errCause = s.errCause)

/-- The port values a table word is presented with are accepted at the very next edge and run as the decoded command. Stopping
a byte in progress to do so is the model's choice (notes/assumptions/3.md). -/
def Obligations.WithFetchWordRunsTheWord : Prop :=
  ∀ (s : State) (nbits w : Nat) (i : Instr), decodeTableWord nbits w = some i →
    step (s.withFetchWord nbits w) = exec i { s with cnt := 0#4, inputs := s.inputs.tail }

/-! ## Encoding -/

/-- Decode and encode agree in both directions, over every command and every command word. -/
def Obligations.DecodeEncodeRoundTrip : Prop :=
  (∀ i : Instr, i.wellFormed = true → decodeWord (encode i) = i) ∧
  (∀ w : CmdWord, (decodeWord w).wellFormed = true ∧ encode (decodeWord w) = w)

/-- R62, R60: the opcode map as match and mask, the op field, and the fields of the decoded command. -/
def Obligations.OpcodeMapMatchesTheTable : Prop :=
  ∀ w : CmdWord,
    (w &&& 0x300#10 = 0x000#10 ↔ decodeWord w = .nop (w.extractLsb' 0 8)) ∧
    (w &&& 0x300#10 = 0x100#10 ↔ decodeWord w = .start (w.extractLsb' 0 8)) ∧
    (w &&& 0x300#10 = 0x200#10 ↔ decodeWord w = .data (w.extractLsb' 0 8)) ∧
    (w &&& 0x300#10 = 0x300#10 ↔ decodeWord w = .finish (w.extractLsb' 0 8)) ∧
    (decodeWord w).op = w.extractLsb' 8 2

/-- Words written out bit by bit from 30_encoding.md sections 1 and 2 decode to the command they stand for. The last clause, that a
number decodes iff it is below 1024, is no rule of the spec: rejecting a wider number by name is the model's choice
(DEDUCED, notes/assumptions/6.md). -/
def Obligations.WrittenOutWordsDecode : Prop :=
  decodeWord 0b0000000000#10 = .nop 0b00000000#8 ∧
  decodeWord 0b0001111110#10 = .nop 0b01111110#8 ∧
  decodeWord 0b0100000000#10 = .start 0b00000000#8 ∧
  decodeWord 0b1000010100#10 = .data 0b00010100#8 ∧
  decodeWord 0b1011111111#10 = .data 0b11111111#8 ∧
  decodeWord 0b1110101011#10 = .finish 0b10101011#8 ∧
  (∀ v, (∃ i, decodeBits v = .ok i) ↔ v < 1024)

/-- 30_encoding.md section 3: the core ignores CW[7:0] of NOP, START and FINISH: the edge does the same whatever it holds. -/
def Obligations.ReservedDataFieldIgnored : Prop :=
  (∀ (s : State) (p : PortSample) (d : Byte) (ps : List PortSample), p.op ≠ 0b10#2 →
    step (s.withInputs ({ p with data := d } :: ps)) = step (s.withInputs (p :: ps))) ∧
  (∀ (s : State) (d : Byte), exec (.nop d) s = exec (.nop 0x00#8) s ∧ exec (.start d) s = exec (.start 0x00#8) s ∧
    exec (.finish d) s = exec (.finish 0x00#8) s)

/-- The command word of each assembler form, with the one-line examples (R67); the range of imm8 and the error outside it (R66). The
clause that `.cw` above 0x3FF is an assembly error is no rule of the spec: R66 gives v its range and no error, and the
error is the model's choice (DESIGN CHOICE, notes/assumptions/14.md). -/
def Obligations.AssemblerFormsEncode : Prop :=
  assembleLine .nop = .ok [0x000#10] ∧
  assembleLine .start = .ok [0x100#10] ∧
  assembleLine .finish = .ok [0x300#10] ∧
  (∀ d, d ≤ 255 → assembleLine (.data d) = .ok [0x200#10 ||| BitVec.ofNat 10 d]) ∧
  (∀ d, 255 < d → assembleLine (.data d) = .error .immOutOfRange) ∧
  (∀ v, v ≤ 0x3FF → assembleLine (.cw v) = .ok [BitVec.ofNat 10 v]) ∧
  (∀ v, 0x3FF < v → assembleLine (.cw v) = .error .rawOutOfRange) ∧
  assembleLine (.data 0x14) = .ok [0x214#10] ∧
  assembleLine (.data 0x00) = .ok [0x200#10] ∧
  assembleLine (.data 0xFF) = .ok [0x2FF#10]

/-- R68: `CRC16 "<hex>"` expands to START, one DATA per decoded byte, FINISH; an odd digit count or a non-hexadecimal character
is the Malformed-Input error. -/
def Obligations.HexPseudoInstructionExpands : Prop :=
  (∀ ds : List (Char × Char), (∀ p ∈ ds, isHexDigit p.1 = true ∧ isHexDigit p.2 = true) →
    assembleLine (.crc16 (ds.flatMap fun p => [p.1, p.2])) =
      .ok (0x100#10 ::
        (ds.map fun p =>
          0x200#10 ||| BitVec.ofNat 10 (16 * (hexDigitValue p.1).getD 0 + (hexDigitValue p.2).getD 0)) ++ [0x300#10])) ∧
  (∀ hex : List Char, assembleLine (.crc16 hex) = .error .malformedInput ↔
    hex.length % 2 = 1 ∨ ∃ c ∈ hex, isHexDigit c = false) ∧
  ['0', '1', '2', '3', '4', '5', '6', '7', '8', '9', 'a', 'b', 'c', 'd', 'e', 'f'].map hexDigitValue =
    (List.range 16).map some ∧
  ['A', 'B', 'C', 'D', 'E', 'F'].map hexDigitValue = ['a', 'b', 'c', 'd', 'e', 'f'].map hexDigitValue ∧
  assembleLine (.crc16 ['1', '4', '4', '4']) = .ok [0x100#10, 0x214#10, 0x244#10, 0x300#10] ∧
  assembleLine (.crc16 []) = .ok [0x100#10, 0x300#10]

/-! ## The datapath functions -/

/-- R78, R79: the bit step, in its two forms, its truth points, and its dependence on R[14:0] and R[15] XOR b alone. -/
def Obligations.BitStepDividesOneBit : Prop :=
  (∀ (r : Word) (b : Bool), divStep r b =
    if (r.getLsbD 15 ^^ b) = true then (r <<< 1) ^^^ 0x3D65#16 else r <<< 1) ∧
  (∀ (r : Word) (b : Bool), divStep r b =
    (r.extractLsb' 0 15 ++ 0#1 : Word) ^^^ (if (r.getLsbD 15 ^^ b) = true then 0x3D65#16 else 0x0000#16)) ∧
  (∀ (r r' : Word) (b b' : Bool), r.extractLsb' 0 15 = r'.extractLsb' 0 15 →
    (r.getLsbD 15 ^^ b) = (r'.getLsbD 15 ^^ b') → divStep r b = divStep r' b') ∧
  (∀ (r : Word) (b : Bool), divStep (r ^^^ 0x8000#16) (!b) = divStep r b) ∧
  divStep 0x0000#16 false = 0x0000#16 ∧ divStep 0x0000#16 true = 0x3D65#16 ∧
  divStep 0x8000#16 false = 0x3D65#16 ∧ divStep 0x8000#16 true = 0x0000#16 ∧
  divStep 0xFFFF#16 false = 0xC29B#16 ∧ divStep 0xFFFF#16 true = 0xFFFE#16 ∧
  divStep 0x7FFF#16 true = 0xC29B#16 ∧ divStep 0x4000#16 false = 0x8000#16

/-- R80: the byte step divides the eight bits of a byte, most significant first; corner cases and example. -/
def Obligations.ByteStepDividesMostSignificantBitFirst : Prop :=
  (∀ (r : Word) (d : Byte), byteUpdate r d =
    [7, 6, 5, 4, 3, 2, 1, 0].foldl (fun v i => divStep v (d.getLsbD i)) r) ∧
  byteUpdate 0x0000#16 0x00#8 = 0x0000#16 ∧ byteUpdate 0x0000#16 0x01#8 = 0x3D65#16 ∧
  byteUpdate 0x8000#16 0x80#8 = 0x0000#16 ∧ byteUpdate 0xFFFF#16 0xFF#8 = 0xFF00#16 ∧
  byteUpdate 0x0000#16 0x14#8 = 0x646B#16

/-- R81: the message fold, its split at any point, its loop over exactly the message's bits, and the example. -/
def Obligations.MessageFoldOverBytes : Prop :=
  (∀ r : Word, msgFold r [] = r) ∧
  (∀ (r : Word) (b : Byte) (m : List Byte), msgFold r (b :: m) = msgFold (byteUpdate r b) m) ∧
  (∀ m : List Byte, rawCRC m = msgFold 0x0000#16 m) ∧
  (∀ (r : Word) (a b : List Byte), msgFold r (a ++ b) = msgFold (msgFold r a) b) ∧
  (∀ (r : Word) (m : List Byte), msgFold r m = (m.flatMap bitsMsbFirst).foldl divStep r ∧
    (m.flatMap bitsMsbFirst).length = 8 * m.length) ∧
  rawCRC [0x14#8, 0x44#8] = byteUpdate 0x646B#16 0x44#8 ∧ rawCRC [0x14#8, 0x44#8] = 0x759B#16

/-- R82, R83: the complement, the two output bytes in transmission order, which FINISH writes to RESULT, and their corner cases and
examples. -/
def Obligations.FinalisationComplementsAndSwaps : Prop :=
  (∀ m : List Byte, complement (rawCRC m) = rawCRC m ^^^ 0xFFFF#16) ∧
  (∀ m : List Byte, complement (rawCRC m) = 0x0000#16 ↔ rawCRC m = 0xFFFF#16) ∧
  (∀ r : Word, (finalWord r).extractLsb' 8 8 = (r ^^^ 0xFFFF#16).extractLsb' 0 8 ∧
    (finalWord r).extractLsb' 0 8 = (r ^^^ 0xFFFF#16).extractLsb' 8 8) ∧
  (∀ (d : Byte) (s t : State), s.active = true → exec (.finish d) s = .next t → t.result = finalWord s.r) ∧
  complement 0x853A#16 = 0x7AC5#16 ∧
  finalWord 0x0000#16 = 0xFFFF#16 ∧ finalWord 0xFFFF#16 = 0x0000#16 ∧ finalWord 0x00FF#16 = 0x00FF#16 ∧
  finalWord 0x853A#16 = 0xC57A#16

/-- R85: the checksum function and its transmitted bytes, with the example, and the known vectors of 95_test_vectors.md
part 1. -/
def Obligations.ChecksumFunctionAndKnownVectors : Prop :=
  (∀ m : List Byte, crc16 m = finalWord (rawCRC m) ∧ crc16 m = swap16 (msgFold 0x0000#16 m ^^^ 0xFFFF#16) ∧
    (crc16 m).extractLsb' 8 8 = (complement (rawCRC m)).extractLsb' 0 8 ∧
    (crc16 m).extractLsb' 0 8 = (complement (rawCRC m)).extractLsb' 8 8) ∧
  crc16 [0x31#8, 0x32#8, 0x33#8, 0x34#8, 0x35#8, 0x36#8, 0x37#8, 0x38#8, 0x39#8] = 0xB7C2#16 ∧
  rawCRC [0x31#8, 0x32#8, 0x33#8, 0x34#8, 0x35#8, 0x36#8, 0x37#8, 0x38#8, 0x39#8] = 0x3D48#16 ∧
  finalWord 0x3D48#16 = 0xB7C2#16 ∧ complement 0x3D48#16 = 0xC2B7#16 ∧
  crc16 [0x14#8, 0x44#8, 0xAE#8, 0x0C#8, 0x78#8, 0x56#8, 0x34#8, 0x12#8, 0x01#8, 0x07#8, 0x8C#8, 0x20#8, 0x27#8, 0x78#8,
    0x0B#8, 0x13#8, 0x43#8, 0x65#8, 0x87#8] = 0xC57A#16 ∧
  crc16 ([0x79#8, 0x13#8, 0x8C#8, 0x79#8, 0x76#8, 0xCE#8] ++ List.replicate 7 0x00#8 ++ 0x04#8 :: List.replicate 7 0x00#8)
    = 0xBB52#16 ∧
  crc16 ([0x79#8, 0x13#8, 0x8C#8, 0x44#8, 0x91#8, 0xCE#8] ++ List.replicate 7 0x00#8 ++ 0x03#8 :: List.replicate 7 0x00#8)
    = 0x1170#16

/-- 10_state.md section 5: RESULT determines the remainder it was made from (the map is invertible), and no output shows R, SH or
more of CNT than CNT != 0. -/
def Obligations.RemainderIsHiddenUntilFinish : Prop :=
  (∀ r : Word, finalWord (finalWord r) = r) ∧
  (∀ s u : State, s.busy = u.busy → s.active = u.active → s.done = u.done → s.err = u.err → s.errCause = u.errCause →
    s.result = u.result → s.statusWord = u.statusWord ∧ s.resWord = u.resWord ∧ s.flagPorts = u.flagPorts ∧
    ∀ p, readyAt p s = readyAt p u) ∧
  (∀ (s u s' u' : State) (a b : Byte), s.active = true → u.active = true → exec (.finish a) s = .next s' →
    exec (.finish b) u = .next u' → (s'.resWord = u'.resWord ↔ s.r = u.r))

/-- R86: for every message the bit-serial form and the long division give the same raw CRC; both reproduce the three source
vectors. -/
def Obligations.BitSerialEqualsLongDivision : Prop :=
  (∀ m : List Byte, rawCRC m = longDiv m) ∧
  longDiv [0x14#8, 0x44#8, 0xAE#8, 0x0C#8, 0x78#8, 0x56#8, 0x34#8, 0x12#8, 0x01#8, 0x07#8, 0x8C#8, 0x20#8, 0x27#8, 0x78#8,
    0x0B#8, 0x13#8, 0x43#8, 0x65#8, 0x87#8] = 0x853A#16 ∧
  longDiv ([0x79#8, 0x13#8, 0x8C#8, 0x79#8, 0x76#8, 0xCE#8] ++ List.replicate 7 0x00#8 ++ 0x04#8 :: List.replicate 7 0x00#8)
    = 0xAD44#16 ∧
  longDiv ([0x79#8, 0x13#8, 0x8C#8, 0x44#8, 0x91#8, 0xCE#8] ++ List.replicate 7 0x00#8 ++ 0x03#8 :: List.replicate 7 0x00#8)
    = 0x8FEE#16

/-- 40_division.md section 4 with 00_scope.md section 5: the loop of the long division leaves V below 2^16, and the raw CRC is
the remainder of M(x) x^16 on division by g(x) over GF(2): the one value of 16 bits that a multiple of g completes to
the message followed by sixteen zero bits. -/
def Obligations.RawChecksumIsThePolynomialRemainder : Prop :=
  ∀ m : List Byte,
    longDivLoop (8 * m.length) (messageNumber m <<< 16) < 2 ^ 16 ∧
    (∃ q < 2 ^ (8 * m.length), polyMul (8 * m.length) q 0x13D65 ^^^ (rawCRC m).toNat = messageNumber m <<< 16) ∧
    (∀ (q : Nat) (r : Word), q < 2 ^ (8 * m.length) →
      polyMul (8 * m.length) q 0x13D65 ^^^ r.toNat = messageNumber m <<< 16 → r = rawCRC m)

/-- R88: the empty message gives 0x0000, complemented 0xFFFF, transmitted FF FF; no other initial remainder does. -/
def Obligations.EmptyMessageFixesTheInitialRemainder : Prop :=
  rawCRC [] = 0x0000#16 ∧ crc16 [] = 0xFFFF#16 ∧ crc16 [] = swap16 (complement 0x0000#16) ∧
  (crc16 []).extractLsb' 8 8 = 0xFF#8 ∧ (crc16 []).extractLsb' 0 8 = 0xFF#8 ∧
  (∀ init : Word, finalWord (msgFold init []) = 0xFFFF#16 ↔ init = 0x0000#16)

/-- R90: leading zero bytes do not change the checksum, so every all-zero message gives 0xFFFF; the examples, and a pair of
different messages with one checksum. -/
def Obligations.LeadingZeroBytesAreInvisible : Prop :=
  (∀ (k : Nat) (m : List Byte), crc16 (List.replicate k 0x00#8 ++ m) = crc16 m) ∧
  divStep 0x0000#16 false = 0x0000#16 ∧
  (∀ k : Nat, crc16 (List.replicate k 0x00#8) = 0xFFFF#16) ∧
  crc16 [0x00#8, 0x14#8] = 0x949B#16 ∧ crc16 [0x14#8] = 0x949B#16 ∧
  ¬ ∀ a b : List Byte, crc16 a = crc16 b → a = b

/-- R91: the raw CRC is linear over GF(2) in messages of equal length, and the initial remainder adds its own part. -/
def Obligations.RawChecksumIsLinear : Prop :=
  (∀ a b : List Byte, a.length = b.length → rawCRC (List.zipWith (· ^^^ ·) a b) = rawCRC a ^^^ rawCRC b) ∧
  (∀ (r : Word) (m : List Byte), msgFold r m = msgFold r (List.replicate m.length 0x00#8) ^^^ rawCRC m) ∧
  rawCRC [0x14#8, 0x44#8] = 0x759B#16 ∧ rawCRC [0xAE#8, 0x0C#8] = 0x5601#16 ∧ rawCRC [0xBA#8, 0x48#8] = 0x239A#16 ∧
  (0x239A#16 : Word) = 0x759B#16 ^^^ 0x5601#16

/-- R92: flipping any single bit of any message changes the checksum. Flipping bit i of byte j, which is the bit of weight
8(n-1-j)+i in the message, changes the raw CRC by x^(8(n-1-j)+i) x^16 mod g(x), and that is never zero. -/
def Obligations.SingleBitFlipChangesTheChecksum : Prop :=
  ∀ (m : List Byte) (j i : Nat), j < m.length → i < 8 →
    crc16 (m.modify j (· ^^^ (1#8 <<< i))) ≠ crc16 m ∧
    rawCRC (m.modify j (· ^^^ (1#8 <<< i))) ^^^ rawCRC m =
      BitVec.ofNat 16 (longDivLoop (8 * m.length) ((2 ^ (8 * (m.length - 1 - j) + i)) <<< 16)) ∧
    rawCRC (m.modify j (· ^^^ (1#8 <<< i))) ^^^ rawCRC m ≠ 0x0000#16

/-- R93: appending the transmitted bytes leaves no constant residue; appending C most significant byte first leaves 0xA366 for
every message. -/
def Obligations.AppendedChecksumResidue : Prop :=
  (∀ m : List Byte,
    rawCRC (m ++ [(complement (rawCRC m)).extractLsb' 8 8, (complement (rawCRC m)).extractLsb' 0 8]) = 0xA366#16 ∧
    crc16 (m ++ [(complement (rawCRC m)).extractLsb' 8 8, (complement (rawCRC m)).extractLsb' 0 8]) = 0x995C#16) ∧
  rawCRC [0xFF#8, 0xFF#8] = 0xA366#16 ∧
  (¬ ∃ c : Word, ∀ m : List Byte,
    rawCRC (m ++ [(complement (rawCRC m)).extractLsb' 0 8, (complement (rawCRC m)).extractLsb' 8 8]) = c) ∧
  rawCRC ([0x14#8, 0x44#8, 0xAE#8, 0x0C#8, 0x78#8, 0x56#8, 0x34#8, 0x12#8, 0x01#8, 0x07#8, 0x8C#8, 0x20#8, 0x27#8, 0x78#8,
    0x0B#8, 0x13#8, 0x43#8, 0x65#8, 0x87#8] ++ [0xC5#8, 0x7A#8]) = 0x9AEE#16 ∧
  rawCRC (([0x79#8, 0x13#8, 0x8C#8, 0x79#8, 0x76#8, 0xCE#8] ++ List.replicate 7 0x00#8 ++
    0x04#8 :: List.replicate 7 0x00#8) ++ [0xBB#8, 0x52#8]) = 0x774D#16 ∧
  rawCRC (([0x79#8, 0x13#8, 0x8C#8, 0x44#8, 0x91#8, 0xCE#8] ++ List.replicate 7 0x00#8 ++
    0x03#8 :: List.replicate 7 0x00#8) ++ [0x11#8, 0x70#8]) = 0xBD42#16

/-! ## The commands -/

/-- R100: NOP changes nothing in any state, whatever its data field, and a NOP between two commands does not change what the
commands do. -/
def Obligations.NopChangesNothing : Prop :=
  (∀ (d : Byte) (s : State), exec (.nop d) s = .next s) ∧
  encode (.nop 0x00#8) = 0x000#10 ∧
  (∀ (s : State) (p : PortSample) (ps : List PortSample), p.rst = false → s.cnt = 0#4 → p.valid = true → p.op = 0b00#2 →
    acceptedCommand p s = some (.nop p.data) ∧ step (s.withInputs (p :: ps)) = .next (s.withInputs ps)) ∧
  (∀ (s : State) (d : Byte) (a b : List Instr), aRun s (a ++ .nop d :: b) = aRun s (a ++ b))

/-- R101: START clears R and the error, opens a frame, ends DONE, and leaves SH, CNT and RESULT; in an open frame, after a FINISH
and after an error alike, and never while a byte is being divided. -/
def Obligations.StartOpensAFrame : Prop :=
  (∀ (d : Byte) (s : State), exec (.start d) s =
    .next { s with r := 0x0000#16, active := true, done := false, err := false, errCause := 0b00#2 }) ∧
  encode (.start 0x00#8) = 0x100#10 ∧
  (∀ (s : State) (p : PortSample), s.cnt ≠ 0#4 → acceptedCommand p s = none) ∧
  (∀ (d : Byte) (s : State), s.active = false → s.done = true → s.r = 0x853A#16 → s.result = 0xC57A#16 →
    ∃ t, exec (.start d) s = .next t ∧ t.active = true ∧ t.done = false ∧ t.r = 0x0000#16 ∧ t.result = 0xC57A#16)

/-- R102: DATA while ACTIVE loads its byte and sets CNT to 8, dividing no bit at its own edge; the eight edges that follow are busy
and leave R = ByteUpdate(R, imm8), SH = 0x00, CNT = 0; corner cases and example. -/
def Obligations.DataWhileActiveSuppliesAByte : Prop :=
  (∀ (b : Byte) (s : State), s.active = true → exec (.data b) s = .next { s with sh := b, cnt := 8#4 }) ∧
  (∀ b : Byte, encode (.data b) = 0x200#10 ||| b.setWidth 10) ∧
  (∀ (b : Byte) (s t : State) (ps : List PortSample), s.active = true → exec (.data b) s = .next t → noReset ps →
    (ps.length < 8 → ∃ u, runPorts ps t = .next u ∧ u.busy = true) ∧
    (ps.length = 8 → runPorts ps t =
      .next { s with r := byteUpdate s.r b, sh := 0x00#8, cnt := 0#4, inputs := [] })) ∧
  byteUpdate 0x0000#16 0x00#8 = 0x0000#16 ∧ byteUpdate 0xFFFF#16 0xFF#8 = 0xFF00#16 ∧
  byteUpdate 0x0000#16 0x14#8 = 0x646B#16

/-- R103: DATA while IDLE is the protocol error DATA_IDLE and has no other effect: the core stays ready, the byte is lost to every
later frame, and after a reset every DATA before the first START takes this rule. -/
def Obligations.DataWhileIdleIsAnError : Prop :=
  (∀ (b : Byte) (s : State), s.active = false → exec (.data b) s =
    .next { s with err := true, errCause := if s.err then s.errCause else 0b01#2 }) ∧
  (∀ (b : Byte) (s t : State), s.active = false → s.cnt = 0#4 → exec (.data b) s = .next t →
    ∀ p : PortSample, readyAt p t = !p.rst) ∧
  (∀ (b d : Byte) (s t : State), s.active = false → exec (.data b) s = .next t →
    exec (.start d) t = exec (.start d) s) ∧
  (∀ (ps : List PortSample) (b : Byte), noReset ps →
    (∀ i ∈ acceptedCommands ps State.reset, i.op ≠ 0b01#2) →
    ∃ t, runPorts ps State.reset = .next t ∧ t.active = false ∧ exec (.data b) t =
      .next { t with err := true, errCause := if t.err then t.errCause else 0b01#2 }) ∧
  (∃ t, exec (.data 0x12#8) State.reset = .next t ∧ t.err = true ∧ t.errCause = 0b01#2 ∧ t.r = 0x0000#16 ∧
    t.active = false)

/-- R104: FINISH while ACTIVE publishes Final(R), sets DONE, ends the frame and leaves R, SH, CNT, ERR and ERR_CAUSE; never while a
byte is being divided; the empty frame and the example. That ERR cannot be 1 here is an invariant of the states reached
from a reset. -/
def Obligations.FinishWhileActivePublishes : Prop :=
  (∀ (d : Byte) (s : State), s.active = true → exec (.finish d) s =
    .next { s with result := swap16 (s.r ^^^ 0xFFFF#16), done := true, active := false }) ∧
  encode (.finish 0x00#8) = 0x300#10 ∧
  (∀ (d e : Byte) (s t : State), exec (.start d) s = .next t →
    ∃ u, exec (.finish e) t = .next u ∧ u.result = 0xFFFF#16) ∧
  (∀ (s : State) (p : PortSample), s.cnt ≠ 0#4 → acceptedCommand p s = none) ∧
  (∀ s : State, s.Inv → s.active = true → s.err = false) ∧
  (∀ (d : Byte) (s : State), s.active = true → s.r = 0x853A#16 →
    ∃ t, exec (.finish d) s = .next t ∧ t.result = 0xC57A#16 ∧ t.done = true ∧ t.active = false)

/-- R105: FINISH while IDLE is the protocol error FINISH_IDLE and has no other effect: the last checksum and DONE survive. -/
def Obligations.FinishWhileIdleIsAnError : Prop :=
  (∀ (d : Byte) (s : State), s.active = false → exec (.finish d) s =
    .next { s with err := true, errCause := if s.err then s.errCause else 0b10#2 }) ∧
  (∀ (d e : Byte) (s t u : State), s.active = true → exec (.finish d) s = .next t → exec (.finish e) t = .next u →
    u.result = t.result ∧ u.done = true ∧ u.err = true) ∧
  (∃ t, exec (.finish 0x00#8) State.reset = .next t ∧ t.result = 0x0000#16 ∧ t.done = false) ∧
  (∀ (d : Byte) (s : State), s.active = false → s.done = true → s.result = 0xC57A#16 → s.err = false →
    ∃ t, exec (.finish d) s = .next t ∧ t.done = true ∧ t.result = 0xC57A#16 ∧ t.err = true ∧ t.errCause = 0b10#2)

/-- What each command leaves unchanged, in every state (10_state.md section 4, 41_commands.md section 2). -/
def Obligations.CommandFrames : Prop :=
  ∀ (i : Instr) (s t : State), exec i s = .next t →
    t.inputs = s.inputs ∧
    (i.op ≠ 0b01#2 → t.r = s.r) ∧
    ((i.op ≠ 0b10#2 ∨ s.active = false) → t.sh = s.sh ∧ t.cnt = s.cnt) ∧
    ((i.op ≠ 0b11#2 ∨ s.active = false) → t.result = s.result) ∧
    (i.op = 0b10#2 → t.active = s.active ∧ t.done = s.done) ∧
    ((i.op = 0b11#2 ∧ s.active = false) → t.active = s.active ∧ t.done = s.done) ∧
    (((i.op = 0b10#2 ∨ i.op = 0b11#2) ∧ s.active = true) → t.err = s.err ∧ t.errCause = s.errCause) ∧
    (i.op = 0b00#2 → t = s)

/-! ## Flags and errors -/

/-- R37: the next value of every flag, so that each has exactly the writers of the table; the last clause says that only the host
reads DONE, and that ERR_CAUSE is read by nothing but its own first-error capture. -/
def Obligations.FlagWriters : Prop :=
  (∀ s t : State, step s = .next t →
    t.active = (if s.port.rst then false else
      match acceptedCommand s.port s with
      | some (.start _) => true | some (.finish _) => false
      | some (.nop _) => s.active | some (.data _) => s.active | none => s.active) ∧
    t.done = (if s.port.rst then false else
      match acceptedCommand s.port s with
      | some (.start _) => false | some (.finish _) => s.active || s.done
      | some (.nop _) => s.done | some (.data _) => s.done | none => s.done) ∧
    t.err = (if s.port.rst then false else
      match acceptedCommand s.port s with
      | some (.start _) => false | some (.finish _) => !s.active || s.err | some (.data _) => !s.active || s.err
      | some (.nop _) => s.err | none => s.err) ∧
    t.errCause = (if s.port.rst then 0b00#2 else
      match acceptedCommand s.port s with
      | some (.start _) => 0b00#2
      | some (.finish _) => if s.active || s.err then s.errCause else 0b10#2
      | some (.data _) => if s.active || s.err then s.errCause else 0b01#2
      | some (.nop _) => s.errCause | none => s.errCause) ∧
    (t.busy = true ↔ s.port.rst = false ∧
      (2 ≤ s.cnt.toNat ∨ (s.active = true ∧ ∃ b, acceptedCommand s.port s = some (.data b))))) ∧
  (∀ (s t : State) (b : Bool) (c : BitVec 2), step s = .next t →
    ∃ v, step { s with done := b, errCause := c } = .next v ∧ { v with done := t.done, errCause := t.errCause } = t)

/-- 10_state.md section 1: the next value of R, SH, CNT and RESULT, so that each has exactly the writers its rule names. -/
def Obligations.RegisterWriters : Prop :=
  ∀ s t : State, step s = .next t →
    t.inputs = s.inputs.tail ∧
    t.r = (if s.port.rst then 0x0000#16 else if s.busy then divStep s.r (s.sh.getLsbD 7) else
      match acceptedCommand s.port s with
      | some (.start _) => 0x0000#16
      | some (.nop _) => s.r | some (.data _) => s.r | some (.finish _) => s.r | none => s.r) ∧
    t.sh = (if s.port.rst then 0x00#8 else if s.busy then s.sh.extractLsb' 0 7 ++ 0#1 else
      match acceptedCommand s.port s with
      | some (.data b) => if s.active then b else s.sh
      | some (.nop _) => s.sh | some (.start _) => s.sh | some (.finish _) => s.sh | none => s.sh) ∧
    t.cnt = (if s.port.rst then 0#4 else if s.busy then s.cnt - 1#4 else
      match acceptedCommand s.port s with
      | some (.data _) => if s.active then 8#4 else 0#4
      | some (.nop _) => 0#4 | some (.start _) => 0#4 | some (.finish _) => 0#4 | none => 0#4) ∧
    t.result = (if s.port.rst then 0x0000#16 else
      match acceptedCommand s.port s with
      | some (.finish _) => if s.active then swap16 (s.r ^^^ 0xFFFF#16) else s.result
      | some (.nop _) => s.result | some (.start _) => s.result | some (.data _) => s.result | none => s.result)

/-- R123: DATA_IDLE and FINISH_IDLE are raised by DATA and FINISH accepted while ACTIVE = 0, and by nothing else; ERR_CAUSE = 11 is
never produced. -/
def Obligations.ErrorCauses : Prop :=
  (∀ (i : Instr) (s t : State), exec i s = .next t → s.err = false → t.err = true →
    s.active = false ∧
    ((∃ b, i = .data b) ∧ t.errCause = 0b01#2 ∨ (∃ d, i = .finish d) ∧ t.errCause = 0b10#2)) ∧
  (∀ (b : Byte) (s : State), s.active = false → s.err = false →
    (∃ t, exec (.data b) s = .next t ∧ t.err = true ∧ t.errCause = 0b01#2) ∧
    (∃ t, exec (.finish b) s = .next t ∧ t.err = true ∧ t.errCause = 0b10#2)) ∧
  (∀ (i : Instr) (s t : State), exec i s = .next t → i.op = 0b00#2 ∨ i.op = 0b01#2 ∨ s.active = true →
    t.err = true → s.err = true) ∧
  (∀ (i : Instr) (s t : State), exec i s = .next t → s.errCause ≠ 0b11#2 → t.errCause ≠ 0b11#2) ∧
  (∀ (i : Instr) (s t : State), exec i s = .next t → (s.err = false ↔ s.errCause = 0b00#2) →
    (t.err = false ↔ t.errCause = 0b00#2))

/-- R122: the protocol error sets ERR, records the cause only when ERR was 0, changes nothing else, and leaves the core ready for
the next command. -/
def Obligations.ProtocolErrorHasNoOtherEffect : Prop :=
  (∀ (c : BitVec 2) (s : State), s.err = false →
    protocolError c s = { s with err := true, errCause := c }) ∧
  (∀ (c : BitVec 2) (s : State), s.err = true → protocolError c s = s) ∧
  (∀ (c : BitVec 2) (s : State) (p : PortSample), acceptedCommand p (protocolError c s) = acceptedCommand p s) ∧
  (∀ (b : Byte) (s : State), s.active = false →
    exec (.data b) s = .next (protocolError 0b01#2 s) ∧ exec (.finish b) s = .next (protocolError 0b10#2 s)) ∧
  (∀ (c : BitVec 2) (d : Byte) (s t : State), exec (.start d) (protocolError c s) = .next t →
    t.err = false ∧ t.errCause = 0b00#2) ∧
  (∀ (c : BitVec 2) (s : State), (resetEdge (protocolError c s)).err = false ∧
    (resetEdge (protocolError c s)).errCause = 0b00#2)

/-- R128: ERR and ERR_CAUSE are cleared by an accepted START or by reset and by nothing else, over any number of edges; a second
error keeps the first cause. -/
def Obligations.OnlyStartOrResetClearsAnError : Prop :=
  (∀ (ps : List PortSample) (s : State), s.err = true → noReset ps →
    (∀ i ∈ acceptedCommands ps s, i.op ≠ 0b01#2) →
    ∃ t, runPorts ps s = .next t ∧ t.err = true ∧ t.errCause = s.errCause) ∧
  (∀ (d : Byte) (s : State), ∃ t, exec (.start d) s = .next t ∧ t.err = false ∧ t.errCause = 0b00#2) ∧
  (∀ (s : State) (p : PortSample) (ps : List PortSample), p.rst = true →
    ∃ t, step (s.withInputs (p :: ps)) = .next t ∧ t.err = false ∧ t.errCause = 0b00#2)

/-! ## Invariants -/

/-- Every step keeps the invariants of 10_state.md section 5, from every state that meets them. -/
def Obligations.EveryStepKeepsTheInvariants : Prop :=
  ∀ s t : State, s.Inv → step s = .next t → t.Inv

/-- The reset state meets the invariants of 10_state.md section 5. -/
def Obligations.ResetStateMeetsTheInvariants : Prop := State.reset.Inv

/-- R40: the invariants hold in every state reached from a reset edge, whatever state it found and whatever the host does
after it. -/
def Obligations.InvariantsHoldAfterAnyReset : Prop :=
  ∀ (s t : State) (p : PortSample) (ps : List PortSample), p.rst = true → runPorts (p :: ps) s = .next t →
    t.cnt.toNat ≤ 8 ∧
    (t.cnt ≠ 0#4 → t.active = true) ∧
    (t.done = true → t.active = false) ∧
    (t.err = false ↔ t.errCause = 0b00#2) ∧
    t.errCause ≠ 0b11#2 ∧
    (∀ i, i + t.cnt.toNat < 8 → t.sh.getLsbD i = false) ∧
    (t.active = true → t.done = false ∧ t.err = false)

/-! ## Ports -/

/-- R32: the status word, bit by bit, and its reset value. -/
def Obligations.StatusWordBits : Prop :=
  (∀ s : State,
    s.statusWord.getLsbD 0 = (s.cnt != 0#4) ∧ s.statusWord.getLsbD 1 = s.active ∧ s.statusWord.getLsbD 2 = s.done ∧
    s.statusWord.getLsbD 3 = s.err ∧ s.statusWord.extractLsb' 4 2 = s.errCause ∧ s.statusWord.extractLsb' 6 2 = 0b00#2) ∧
  State.reset.statusWord = 0x00#8

/-- R34, R35: the output ports. `cmd_ready` is the only one that looks at the input ports, and it is 1 exactly when a presented
command is accepted. -/
def Obligations.OutputPorts : Prop :=
  (∀ s : State, s.resWord = s.result ∧ s.firstByte = s.result.extractLsb' 8 8 ∧ s.secondByte = s.result.extractLsb' 0 8 ∧
    s.flagPorts = (s.statusWord.getLsbD 0, s.statusWord.getLsbD 1, s.statusWord.getLsbD 2, s.statusWord.getLsbD 3)) ∧
  (∀ s : State, s.cmdReady = true ↔ s.cnt = 0#4 ∧ s.port.rst = false) ∧
  (∀ s : State, s.port.valid = true → (s.cmdReady = true ↔ ∃ i, acceptedCommand s.port s = some i)) ∧
  (∀ (s : State) (ps : List PortSample), (s.withInputs ps).resWord = s.resWord ∧
    (s.withInputs ps).statusWord = s.statusWord ∧ (s.withInputs ps).flagPorts = s.flagPorts)

/-- R119: what each accepted command leaves on the outputs after its edge, from every state that meets the invariants, and for DATA
in an open frame after its eight further edges. -/
def Obligations.OutputsAfterEachCommand : Prop :=
  ∀ (i : Instr) (s t : State), s.Inv → s.cnt = 0#4 → exec i s = .next t →
    (i.op = 0b00#2 → readyAt .idle t = true ∧ t.flagPorts = (false, s.active, s.done, s.err) ∧
      t.errCause = s.errCause ∧ t.resWord = s.resWord) ∧
    (i.op = 0b01#2 → readyAt .idle t = true ∧ t.flagPorts = (false, true, false, false) ∧
      t.errCause = 0b00#2 ∧ t.resWord = s.resWord) ∧
    (i.op = 0b10#2 → s.active = true → readyAt .idle t = false ∧ t.flagPorts = (true, true, false, false) ∧
      t.errCause = 0b00#2 ∧ t.resWord = s.resWord ∧
      ∀ ps : List PortSample, noReset ps → ps.length = 8 → ∃ u, runPorts ps t = .next u ∧ readyAt .idle u = true ∧
        u.flagPorts = (false, true, false, false) ∧ u.errCause = 0b00#2 ∧ u.resWord = s.resWord) ∧
    (i.op = 0b10#2 → s.active = false → readyAt .idle t = true ∧ t.flagPorts = (false, false, s.done, true) ∧
      t.errCause = (if s.err then s.errCause else 0b01#2) ∧ t.resWord = s.resWord) ∧
    (i.op = 0b11#2 → s.active = true → readyAt .idle t = true ∧ t.flagPorts = (false, false, true, false) ∧
      t.errCause = 0b00#2 ∧ t.resWord = finalWord s.r) ∧
    (i.op = 0b11#2 → s.active = false → readyAt .idle t = true ∧ t.flagPorts = (false, false, s.done, true) ∧
      t.errCause = (if s.err then s.errCause else 0b10#2) ∧ t.resWord = s.resWord)

/-! ## Runs of edges -/

/-- R111: a bit-division edge divides SH[7], and the eight edges that follow an accepted DATA divide its byte, most significant bit
first, whatever the host drives meanwhile. -/
def Obligations.BitDivisionEdges : Prop :=
  (∀ (s : State) (p : PortSample) (ps : List PortSample), p.rst = false → s.cnt ≠ 0#4 →
    readyAt p s = false ∧ acceptedCommand p s = none ∧ step (s.withInputs (p :: ps)) =
      .next { s with r := divStep s.r (s.sh.getLsbD 7), sh := s.sh.extractLsb' 0 7 ++ 0#1, cnt := s.cnt - 1#4,
                     inputs := ps }) ∧
  (∀ (s : State) (p : PortSample) (ps : List PortSample), s.active = true → acceptedCommand p s = some (.data p.data) →
    noReset ps → ps.length = 8 → runPorts (p :: ps) s =
      .next { s with r := byteUpdate s.r p.data, sh := 0x00#8, cnt := 0#4, inputs := [] })

/-- R112: over any run without a reset edge, from CNT = 0 and SH = 0x00, the state after each edge with CNT = 0 is the AStep state
after the accepted commands, and while a byte is being divided only the hidden registers differ. -/
def Obligations.CommandLevelAbstraction : Prop :=
  ∀ (s : State) (ps : List PortSample), s.cnt = 0#4 → s.sh = 0x00#8 → noReset ps →
    ∃ t, runPorts ps s = .next t ∧
      (t.cnt = 0#4 → t = (aRun s (acceptedCommands ps s)).withInputs []) ∧
      t = { aRun s (acceptedCommands ps s) with r := t.r, sh := t.sh, cnt := t.cnt, inputs := [] }

/-- R113: a frame of START, one DATA per message byte and FINISH, with any NOPs between and however long the host holds each
command, leaves the checksum of its message in RESULT, with DONE = 1, ACTIVE = 0, ERR = 0, ERR_CAUSE = 00, whatever the
state before START. -/
def Obligations.FrameResultIsTheChecksum : Prop :=
  ∀ (s : State) (ps : List PortSample) (m : List Byte), noReset ps → isFrame m (acceptedCommands ps s) →
    ∃ t, runPorts ps s = .next t ∧ t.result = crc16 m ∧ t.done = true ∧ t.active = false ∧ t.err = false ∧
      t.errCause = 0b00#2

/-- R114: a START inside an open frame, and a reset anywhere, leave no trace of what came before: the result is that of the bytes
after it; and after a reset ACTIVE = 0, so the next frame must begin with START. -/
def Obligations.RestartForgetsTheOpenFrame : Prop :=
  (∀ (s : State) (ps : List PortSample) (before frame : List Instr) (m : List Byte), noReset ps →
    acceptedCommands ps s = before ++ frame → isFrame m frame →
    ∃ t, runPorts ps s = .next t ∧ t.result = crc16 m ∧ t.done = true ∧ t.active = false ∧ t.err = false) ∧
  (∀ (s : State) (ps qs : List PortSample) (p : PortSample) (m : List Byte), p.rst = true → noReset qs →
    isFrame m (acceptedCommands qs State.reset) →
    ∃ t, runPorts (ps ++ p :: qs) s = .next t ∧ t.result = crc16 m ∧ t.done = true ∧ t.active = false ∧ t.err = false) ∧
  (∀ (s t : State) (ps : List PortSample) (p : PortSample), p.rst = true → runPorts (ps ++ [p]) s = .next t →
    t.active = false)

/-- R150: the edges from the acceptance of each command until the next can be accepted, and the 9n + 2 edges of a frame of n bytes
under a host that presents each next command at the first edge it can be accepted. -/
def Obligations.EdgeCounts : Prop :=
  (∀ (i : Instr) (s t : State) (ps : List PortSample), s.cnt = 0#4 → exec i s = .next t → noReset ps →
    ((i.op = 0b10#2 ∧ s.active = true) →
      ∀ u, runPorts ps t = .next u → (ps.length < 8 → readyAt .idle u = false) ∧
        (ps.length = 8 → readyAt .idle u = true)) ∧
    (¬ (i.op = 0b10#2 ∧ s.active = true) → readyAt .idle t = true)) ∧
  (∀ (s : State) (m : List Byte), s.cnt = 0#4 →
    acceptedCommands (heldSamples (9 * m.length + 1) (frameWords m) s) s = .start 0x00#8 :: m.map .data ∧
    acceptedCommands (heldSamples (9 * m.length + 2) (frameWords m) s) s =
      .start 0x00#8 :: m.map .data ++ [.finish 0x00#8] ∧
    (heldSamples (9 * m.length + 2) (frameWords m) s).length = 9 * m.length + 2 ∧
    ∃ t, runPorts (heldSamples (9 * m.length + 2) (frameWords m) s) s = .next t ∧ t.result = crc16 m ∧ t.done = true)

/-- R148: while a byte is being divided nothing is accepted and no frame is aborted except by reset; the wait is CNT edges, at most
8 in every state that meets the invariants. -/
def Obligations.NoAbortWhileBusy : Prop :=
  (∀ (s : State) (ps : List PortSample), noReset ps → ps.length ≤ s.cnt.toNat →
    acceptedCommands ps s = [] ∧ ∃ t, runPorts ps s = .next t ∧ t.cnt.toNat = s.cnt.toNat - ps.length ∧
      t.active = s.active ∧ t.done = s.done ∧ t.result = s.result) ∧
  (∀ s : State, s.Inv → s.cnt.toNat ≤ 8)

/-- With `cmd_valid = 0` and CNT = 0 the core holds its state over any number of edges, and with no edge nothing changes
(60_exceptions.md section 4). -/
def Obligations.IdleCoreHoldsItsState : Prop :=
  (∀ (s : State) (ps : List PortSample), s.cnt = 0#4 → (∀ p ∈ ps, p.rst = false ∧ p.valid = false) →
    runPorts ps s = .next (s.withInputs [])) ∧
  (∀ s : State, Host.Core.run Sys2Proof.core 0 s = .next s)

/-- R144: from any state, power-on included: reset for at least one edge, then a held frame; the result is usable and the ports
show the two checksum bytes in transmission order. A later frame needs no reset. -/
def Obligations.BootThenFrameGivesTheChecksum : Prop :=
  (∀ (s : State) (rs : List PortSample) (m : List Byte), rs ≠ [] → (∀ p ∈ rs, p.rst = true) →
    ∃ t, runPorts (rs ++ heldSamples (9 * m.length + 2) (frameWords m) State.reset) s = .next t ∧
      t.resultUsable = true ∧ t.resWord = crc16 m ∧
      t.firstByte = (complement (rawCRC m)).extractLsb' 0 8 ∧ t.secondByte = (complement (rawCRC m)).extractLsb' 8 8 ∧
      t.cnt = 0#4) ∧
  (∀ (s : State) (m : List Byte), s.cnt = 0#4 →
    ∃ t, runPorts (heldSamples (9 * m.length + 2) (frameWords m) s) s = .next t ∧
      t.resultUsable = true ∧ t.resWord = crc16 m ∧ t.cnt = 0#4)

/-- R152: the end of a run: no edge of a held frame before the last is over, the last is, and then RESULT is the checksum; a frame
begun without START is over, as malformed, at its first DATA or FINISH. -/
def Obligations.RunEndsAtTheLastEdge : Prop :=
  (∀ s : State, s.frameOver = true ↔ s.cnt = 0#4 ∧ s.active = false ∧ (s.done = true ∨ s.err = true)) ∧
  (∀ (s t : State) (m : List Byte) (k : Nat), s.cnt = 0#4 → 1 ≤ k → k ≤ 9 * m.length + 1 →
    runPorts (heldSamples k (frameWords m) s) s = .next t → t.frameOver = false) ∧
  (∀ (s : State) (m : List Byte), s.cnt = 0#4 →
    ∃ t, runPorts (heldSamples (9 * m.length + 2) (frameWords m) s) s = .next t ∧ t.frameOver = true ∧
      t.done = true ∧ t.err = false ∧ t.result = crc16 m) ∧
  (∀ (b : Byte) (s : State), s.cnt = 0#4 → s.active = false →
    (∃ t, exec (.data b) s = .next t ∧ t.frameOver = true) ∧ ∃ t, exec (.finish b) s = .next t ∧ t.frameOver = true)

/-- What the control state does, and when the core is ready, does not depend on the bytes of the message: two runs whose hosts
drive the same `rst`, `cmd_valid` and `cmd_op` show the same status word and accept the same operations after any number of
edges. The edge rule (41_commands.md section 3) and the writers of the flags (10_state.md section 4) read no data bit; so the
edge counts (70_reset_and_hazards.md section 4) depend on none. -/
def Obligations.TimingAndFlagsDoNotDependOnData : Prop :=
  ∀ (s u : State) (ps qs : List PortSample),
    ps.map (fun p => (p.rst, p.valid, p.op)) = qs.map (fun p => (p.rst, p.valid, p.op)) →
    s.cnt = u.cnt → s.active = u.active → s.done = u.done → s.err = u.err → s.errCause = u.errCause →
    (acceptedCommands ps s).map Instr.op = (acceptedCommands qs u).map Instr.op ∧
    ∃ t v, runPorts ps s = .next t ∧ runPorts qs u = .next v ∧ t.cnt = v.cnt ∧ t.statusWord = v.statusWord

/-- The state after a run is a function of the accepted commands alone: two hosts, however they time, hold or withdraw their
commands, leave the same state once no byte is being divided (20_memory.md section 3, 60_exceptions.md section 4). -/
def Obligations.AcceptedSequenceDeterminesTheState : Prop :=
  ∀ (s t v : State) (ps qs : List PortSample), s.cnt = 0#4 → s.sh = 0x00#8 → noReset ps → noReset qs →
    acceptedCommands ps s = acceptedCommands qs s → runPorts ps s = .next t → runPorts qs s = .next v →
    t.cnt = 0#4 → v.cnt = 0#4 → t = v

/-- RESULT and DONE stay until a FINISH in an open frame, a START or a reset: whatever else the host presents, a misplaced DATA or
FINISH included (70_reset_and_hazards.md section 3, 60_exceptions.md section 4). -/
def Obligations.PublishedResultIsStable : Prop :=
  (∀ (s : State) (ps : List PortSample), noReset ps → (∀ i ∈ acceptedCommands ps s, i.op ≠ 0b11#2) →
    ∃ t, runPorts ps s = .next t ∧ t.result = s.result) ∧
  (∀ (s : State) (ps : List PortSample), s.Inv → s.done = true → noReset ps →
    (∀ i ∈ acceptedCommands ps s, i.op ≠ 0b01#2) →
    ∃ t, runPorts ps s = .next t ∧ t.result = s.result ∧ t.done = true ∧ t.active = false)
end

