-- ==== Sys2Proof/Laws/Divider.lean ====
section
/-! SUPPORT. What the functions of the datapath do (spec/40_division.md): the equations and the laws of one bit and one byte
that proofs about whole messages cite. -/

namespace Sys2Proof.Machine

@[simp] theorem msgFold_nil (r : Word) : msgFold r [] = r := rfl
@[simp] theorem msgFold_cons (r : Word) (b : Byte) (m : List Byte) :
    msgFold r (b :: m) = msgFold (byteUpdate r b) m := rfl

/-- ByteUpdate as eight bit steps, written out. -/
theorem byteUpdate_eq (r : Word) (d : Byte) :
    byteUpdate r d =
      divStep (divStep (divStep (divStep (divStep (divStep (divStep (divStep r
        (d.getLsbD 7)) (d.getLsbD 6)) (d.getLsbD 5)) (d.getLsbD 4)) (d.getLsbD 3)) (d.getLsbD 2)) (d.getLsbD 1))
        (d.getLsbD 0) := rfl

@[simp] theorem bitsMsbFirst_length (d : Byte) : (bitsMsbFirst d).length = 8 := rfl

/-- The bit step as a sum: the shifted remainder, and POLY where the feedback bit is 1. -/
theorem divStep_eq_xor (r : Word) (b : Bool) :
    divStep r b = (r <<< 1) ^^^ (if r.getLsbD 15 ^^ b then poly else 0#16) := by
  unfold divStep; split <;> simp

/-- One bit of the bit step: bit i is bit i - 1 of the remainder, plus POLY's bit i where the feedback bit is 1. -/
theorem divStep_getLsbD (r : Word) (b : Bool) (i : Nat) (hi : i < 16) :
    (divStep r b).getLsbD i =
      ((decide (1 ≤ i) && r.getLsbD (i - 1)) ^^ ((r.getLsbD 15 ^^ b) && poly.getLsbD i)) := by
  rw [divStep_eq_xor, BitVec.getLsbD_xor, BitVec.getLsbD_shiftLeft]
  have hshift : (decide (i < 16) && !decide (i < 1) && r.getLsbD (i - 1)) = (decide (1 ≤ i) && r.getLsbD (i - 1)) := by
    rcases i with _ | i
    · simp
    · simp [hi]
  rw [hshift]
  cases r.getLsbD 15 ^^ b <;> simp

/-- The bit step is additive in the remainder and the bit together. -/
theorem divStep_xor (r r' : Word) (b b' : Bool) :
    divStep (r ^^^ r') (b ^^ b') = divStep r b ^^^ divStep r' b' := by
  refine BitVec.eq_of_getLsbD_eq fun i hi => ?_
  rw [BitVec.getLsbD_xor, divStep_getLsbD _ _ i hi, divStep_getLsbD _ _ i hi, divStep_getLsbD _ _ i hi,
    BitVec.getLsbD_xor, BitVec.getLsbD_xor]
  cases r.getLsbD (i - 1) <;> cases r'.getLsbD (i - 1) <;> cases r.getLsbD 15 <;> cases r'.getLsbD 15 <;> cases b <;>
    cases b' <;> cases decide (1 ≤ i) <;> cases poly.getLsbD i <;> rfl

/-- Nothing goes in, nothing comes out: the corner 0x0000 with the bit 0. -/
@[simp] theorem divStep_zero : divStep 0#16 false = 0#16 := by decide

/-- The exchange of bytes undoes itself. -/
@[simp] theorem swap16_swap16 (v : Word) : swap16 (swap16 v) = v := by
  refine BitVec.eq_of_getLsbD_eq fun i hi => ?_
  simp only [swap16, BitVec.getLsbD_append, BitVec.getLsbD_extractLsb']
  by_cases h : i < 8
  · simp [h]
  · have h2 : i - 8 < 8 := by omega
    have h3 : 8 + (i - 8) = i := by omega
    simp [h, h2, h3]

/-- The byte step is additive in the remainder and the byte together. -/
theorem byteUpdate_xor (r r' : Word) (d d' : Byte) :
    byteUpdate (r ^^^ r') (d ^^^ d') = byteUpdate r d ^^^ byteUpdate r' d' := by
  simp only [byteUpdate_eq, BitVec.getLsbD_xor, divStep_xor]

/-- The exchange of bytes is additive. -/
theorem swap16_xor (a b : Word) : swap16 (a ^^^ b) = swap16 a ^^^ swap16 b := by
  refine BitVec.eq_of_getLsbD_eq fun i hi => ?_
  simp only [swap16, BitVec.getLsbD_extractLsb', BitVec.getLsbD_append, BitVec.getLsbD_xor]
  by_cases h : i < 8
  · simp [h]
  · have : i - 8 < 8 := by omega
    simp [h, this]

end Sys2Proof.Machine
end

