-- ==== Sys2Proof/Laws/State.lean ====
section
/-! SUPPORT. One lemma per field per update of State, true by rfl, so that no proof unfolds a record update. -/

namespace Sys2Proof.Machine

variable (s : State)

/-! ### withInputs -/

@[simp] theorem withInputs_r (ps : List PortSample) : (s.withInputs ps).r = s.r := rfl
@[simp] theorem withInputs_sh (ps : List PortSample) : (s.withInputs ps).sh = s.sh := rfl
@[simp] theorem withInputs_cnt (ps : List PortSample) : (s.withInputs ps).cnt = s.cnt := rfl
@[simp] theorem withInputs_active (ps : List PortSample) : (s.withInputs ps).active = s.active := rfl
@[simp] theorem withInputs_done (ps : List PortSample) : (s.withInputs ps).done = s.done := rfl
@[simp] theorem withInputs_err (ps : List PortSample) : (s.withInputs ps).err = s.err := rfl
@[simp] theorem withInputs_errCause (ps : List PortSample) : (s.withInputs ps).errCause = s.errCause := rfl
@[simp] theorem withInputs_result (ps : List PortSample) : (s.withInputs ps).result = s.result := rfl
@[simp] theorem withInputs_inputs (ps : List PortSample) : (s.withInputs ps).inputs = ps := rfl

/-! ### popInput -/

@[simp] theorem popInput_r : (s.popInput).r = s.r := rfl
@[simp] theorem popInput_sh : (s.popInput).sh = s.sh := rfl
@[simp] theorem popInput_cnt : (s.popInput).cnt = s.cnt := rfl
@[simp] theorem popInput_active : (s.popInput).active = s.active := rfl
@[simp] theorem popInput_done : (s.popInput).done = s.done := rfl
@[simp] theorem popInput_err : (s.popInput).err = s.err := rfl
@[simp] theorem popInput_errCause : (s.popInput).errCause = s.errCause := rfl
@[simp] theorem popInput_result : (s.popInput).result = s.result := rfl
@[simp] theorem popInput_inputs : (s.popInput).inputs = s.inputs.tail := rfl

/-! ### startFlags -/

@[simp] theorem startFlags_r : (s.startFlags).r = s.r := rfl
@[simp] theorem startFlags_sh : (s.startFlags).sh = s.sh := rfl
@[simp] theorem startFlags_cnt : (s.startFlags).cnt = s.cnt := rfl
@[simp] theorem startFlags_active : (s.startFlags).active = true := rfl
@[simp] theorem startFlags_done : (s.startFlags).done = false := rfl
@[simp] theorem startFlags_err : (s.startFlags).err = false := rfl
@[simp] theorem startFlags_errCause : (s.startFlags).errCause = causeNone := rfl
@[simp] theorem startFlags_result : (s.startFlags).result = s.result := rfl
@[simp] theorem startFlags_inputs : (s.startFlags).inputs = s.inputs := rfl

/-! ### finishFlags -/

@[simp] theorem finishFlags_r : (s.finishFlags).r = s.r := rfl
@[simp] theorem finishFlags_sh : (s.finishFlags).sh = s.sh := rfl
@[simp] theorem finishFlags_cnt : (s.finishFlags).cnt = s.cnt := rfl
@[simp] theorem finishFlags_active : (s.finishFlags).active = false := rfl
@[simp] theorem finishFlags_done : (s.finishFlags).done = true := rfl
@[simp] theorem finishFlags_err : (s.finishFlags).err = s.err := rfl
@[simp] theorem finishFlags_errCause : (s.finishFlags).errCause = s.errCause := rfl
@[simp] theorem finishFlags_result : (s.finishFlags).result = s.result := rfl
@[simp] theorem finishFlags_inputs : (s.finishFlags).inputs = s.inputs := rfl

/-! ### errorFlags -/

@[simp] theorem errorFlags_r (c : BitVec 2) : ((s.errorFlags c)).r = s.r := rfl
@[simp] theorem errorFlags_sh (c : BitVec 2) : ((s.errorFlags c)).sh = s.sh := rfl
@[simp] theorem errorFlags_cnt (c : BitVec 2) : ((s.errorFlags c)).cnt = s.cnt := rfl
@[simp] theorem errorFlags_active (c : BitVec 2) : ((s.errorFlags c)).active = s.active := rfl
@[simp] theorem errorFlags_done (c : BitVec 2) : ((s.errorFlags c)).done = s.done := rfl
@[simp] theorem errorFlags_err (c : BitVec 2) : ((s.errorFlags c)).err = true := rfl
@[simp] theorem errorFlags_errCause (c : BitVec 2) : ((s.errorFlags c)).errCause = if s.err then s.errCause else c := rfl
@[simp] theorem errorFlags_result (c : BitVec 2) : ((s.errorFlags c)).result = s.result := rfl
@[simp] theorem errorFlags_inputs (c : BitVec 2) : ((s.errorFlags c)).inputs = s.inputs := rfl

/-! ### protocolError -/

@[simp] theorem protocolError_r (c : BitVec 2) : (protocolError c s).r = s.r := rfl
@[simp] theorem protocolError_sh (c : BitVec 2) : (protocolError c s).sh = s.sh := rfl
@[simp] theorem protocolError_cnt (c : BitVec 2) : (protocolError c s).cnt = s.cnt := rfl
@[simp] theorem protocolError_active (c : BitVec 2) : (protocolError c s).active = s.active := rfl
@[simp] theorem protocolError_done (c : BitVec 2) : (protocolError c s).done = s.done := rfl
@[simp] theorem protocolError_err (c : BitVec 2) : (protocolError c s).err = true := rfl
@[simp] theorem protocolError_errCause (c : BitVec 2) : (protocolError c s).errCause = if s.err then s.errCause else c := rfl
@[simp] theorem protocolError_result (c : BitVec 2) : (protocolError c s).result = s.result := rfl
@[simp] theorem protocolError_inputs (c : BitVec 2) : (protocolError c s).inputs = s.inputs := rfl

/-! ### startFrame -/

@[simp] theorem startFrame_r : (startFrame s).r = initialRemainder := rfl
@[simp] theorem startFrame_sh : (startFrame s).sh = s.sh := rfl
@[simp] theorem startFrame_cnt : (startFrame s).cnt = s.cnt := rfl
@[simp] theorem startFrame_active : (startFrame s).active = true := rfl
@[simp] theorem startFrame_done : (startFrame s).done = false := rfl
@[simp] theorem startFrame_err : (startFrame s).err = false := rfl
@[simp] theorem startFrame_errCause : (startFrame s).errCause = causeNone := rfl
@[simp] theorem startFrame_result : (startFrame s).result = s.result := rfl
@[simp] theorem startFrame_inputs : (startFrame s).inputs = s.inputs := rfl

/-! ### loadByte -/

@[simp] theorem loadByte_r (b : Byte) : (loadByte b s).r = s.r := rfl
@[simp] theorem loadByte_sh (b : Byte) : (loadByte b s).sh = b := rfl
@[simp] theorem loadByte_cnt (b : Byte) : (loadByte b s).cnt = 8#4 := rfl
@[simp] theorem loadByte_active (b : Byte) : (loadByte b s).active = s.active := rfl
@[simp] theorem loadByte_done (b : Byte) : (loadByte b s).done = s.done := rfl
@[simp] theorem loadByte_err (b : Byte) : (loadByte b s).err = s.err := rfl
@[simp] theorem loadByte_errCause (b : Byte) : (loadByte b s).errCause = s.errCause := rfl
@[simp] theorem loadByte_result (b : Byte) : (loadByte b s).result = s.result := rfl
@[simp] theorem loadByte_inputs (b : Byte) : (loadByte b s).inputs = s.inputs := rfl

/-! ### publishResult -/

@[simp] theorem publishResult_r : (publishResult s).r = s.r := rfl
@[simp] theorem publishResult_sh : (publishResult s).sh = s.sh := rfl
@[simp] theorem publishResult_cnt : (publishResult s).cnt = s.cnt := rfl
@[simp] theorem publishResult_active : (publishResult s).active = false := rfl
@[simp] theorem publishResult_done : (publishResult s).done = true := rfl
@[simp] theorem publishResult_err : (publishResult s).err = s.err := rfl
@[simp] theorem publishResult_errCause : (publishResult s).errCause = s.errCause := rfl
@[simp] theorem publishResult_result : (publishResult s).result = finalWord s.r := rfl
@[simp] theorem publishResult_inputs : (publishResult s).inputs = s.inputs := rfl

/-! ### divideEdge -/

@[simp] theorem divideEdge_r : (divideEdge s).r = divStep s.r s.nextBit := rfl
@[simp] theorem divideEdge_sh : (divideEdge s).sh = shiftByte s.sh := rfl
@[simp] theorem divideEdge_cnt : (divideEdge s).cnt = s.cnt - 1#4 := rfl
@[simp] theorem divideEdge_active : (divideEdge s).active = s.active := rfl
@[simp] theorem divideEdge_done : (divideEdge s).done = s.done := rfl
@[simp] theorem divideEdge_err : (divideEdge s).err = s.err := rfl
@[simp] theorem divideEdge_errCause : (divideEdge s).errCause = s.errCause := rfl
@[simp] theorem divideEdge_result : (divideEdge s).result = s.result := rfl
@[simp] theorem divideEdge_inputs : (divideEdge s).inputs = s.inputs := rfl

/-! ### presentNext -/

@[simp] theorem presentNext_r (w : CmdWord) : (presentNext s w).r = s.r := rfl
@[simp] theorem presentNext_sh (w : CmdWord) : (presentNext s w).sh = s.sh := rfl
@[simp] theorem presentNext_cnt (w : CmdWord) : (presentNext s w).cnt = 0#4 := rfl
@[simp] theorem presentNext_active (w : CmdWord) : (presentNext s w).active = s.active := rfl
@[simp] theorem presentNext_done (w : CmdWord) : (presentNext s w).done = s.done := rfl
@[simp] theorem presentNext_err (w : CmdWord) : (presentNext s w).err = s.err := rfl
@[simp] theorem presentNext_errCause (w : CmdWord) : (presentNext s w).errCause = s.errCause := rfl
@[simp] theorem presentNext_result (w : CmdWord) : (presentNext s w).result = s.result := rfl
@[simp] theorem presentNext_inputs (w : CmdWord) : (presentNext s w).inputs = .present w :: s.inputs.tail := rfl

/-! ### resetEdge -/

@[simp] theorem resetEdge_r : (resetEdge s).r = 0x0000#16 := rfl
@[simp] theorem resetEdge_sh : (resetEdge s).sh = 0x00#8 := rfl
@[simp] theorem resetEdge_cnt : (resetEdge s).cnt = 0#4 := rfl
@[simp] theorem resetEdge_active : (resetEdge s).active = false := rfl
@[simp] theorem resetEdge_done : (resetEdge s).done = false := rfl
@[simp] theorem resetEdge_err : (resetEdge s).err = false := rfl
@[simp] theorem resetEdge_errCause : (resetEdge s).errCause = 0b00#2 := rfl
@[simp] theorem resetEdge_result : (resetEdge s).result = 0x0000#16 := rfl
@[simp] theorem resetEdge_inputs : (resetEdge s).inputs = s.inputs := rfl

/-! ### The host's list and the views -/

@[simp] theorem withInputs_withInputs (ps qs : List PortSample) : (s.withInputs ps).withInputs qs = s.withInputs qs := rfl
@[simp] theorem withInputs_self : s.withInputs s.inputs = s := rfl
@[simp] theorem withInputs_busy (ps : List PortSample) : (s.withInputs ps).busy = s.busy := rfl
@[simp] theorem withInputs_nextBit (ps : List PortSample) : (s.withInputs ps).nextBit = s.nextBit := rfl
@[simp] theorem withInputs_statusWord (ps : List PortSample) : (s.withInputs ps).statusWord = s.statusWord := rfl
@[simp] theorem withInputs_resWord (ps : List PortSample) : (s.withInputs ps).resWord = s.resWord := rfl
@[simp] theorem withInputs_cons_port (p : PortSample) (ps : List PortSample) : (s.withInputs (p :: ps)).port = p := rfl
@[simp] theorem withInputs_nil_port : (s.withInputs []).port = .idle := rfl
@[simp] theorem withInputs_popInput (ps : List PortSample) : (s.withInputs ps).popInput = s.withInputs ps.tail := rfl
@[simp] theorem popInput_busy : s.popInput.busy = s.busy := rfl
@[simp] theorem accepts_withInputs (p : PortSample) (ps : List PortSample) : accepts p (s.withInputs ps) = accepts p s := rfl
@[simp] theorem acceptedCommand_withInputs (p : PortSample) (ps : List PortSample) :
    acceptedCommand p (s.withInputs ps) = acceptedCommand p s := rfl

/-- BUSY is 0 exactly when CNT is 0 (R26). -/
theorem busy_eq_false_iff : s.busy = false ↔ s.cnt = 0#4 := by simp [State.busy]

/-- BUSY is 1 exactly when CNT is not 0 (R26). -/
theorem busy_eq_true_iff : s.busy = true ↔ s.cnt ≠ 0#4 := by simp [State.busy]

/-- Two states are equal when every element is. -/
theorem State.ext_fields {s t : State} (hr : s.r = t.r) (hsh : s.sh = t.sh) (hcnt : s.cnt = t.cnt)
    (hactive : s.active = t.active) (hdone : s.done = t.done) (herr : s.err = t.err) (hcause : s.errCause = t.errCause)
    (hresult : s.result = t.result) (hinputs : s.inputs = t.inputs) : s = t := by
  cases s; cases t; simp_all

end Sys2Proof.Machine
end

