-- ==== Sys2Proof/Laws/Edge.lean ====
section
/-! SUPPORT. What a command, a rising edge and a step can do, each said once (spec/41_commands.md R99 to R110). -/

namespace Sys2Proof.Machine

/-! ### The four meanings -/

theorem exec_nop (d : Byte) (s : State) : exec (.nop d) s = .next s := rfl

theorem exec_start (d : Byte) (s : State) : exec (.start d) s = .next (startFrame s) := rfl

theorem exec_data_active (b : Byte) {s : State} (h : s.active = true) : exec (.data b) s = .next (loadByte b s) := by
  simp [exec, execData, h]

theorem exec_data_idle (b : Byte) {s : State} (h : s.active = false) :
    exec (.data b) s = .next (protocolError causeDataIdle s) := by
  simp [exec, execData, h]

theorem exec_finish_active (d : Byte) {s : State} (h : s.active = true) :
    exec (.finish d) s = .next (publishResult s) := by
  simp [exec, execFinish, h]

theorem exec_finish_idle (d : Byte) {s : State} (h : s.active = false) :
    exec (.finish d) s = .next (protocolError causeFinishIdle s) := by
  simp [exec, execFinish, h]

/-- Everything an accepted command can do. -/
theorem exec_cases {i : Instr} {s t : State} (h : exec i s = .next t) :
    (∃ d, i = .nop d ∧ t = s) ∨
    (∃ d, i = .start d ∧ t = startFrame s) ∨
    (∃ b, i = .data b ∧ s.active = true ∧ t = loadByte b s) ∨
    (∃ b, i = .data b ∧ s.active = false ∧ t = protocolError causeDataIdle s) ∨
    (∃ d, i = .finish d ∧ s.active = true ∧ t = publishResult s) ∨
    (∃ d, i = .finish d ∧ s.active = false ∧ t = protocolError causeFinishIdle s) := by
  cases hs : s.active <;> cases i <;> simp only [exec, execNop, execStart, execData, execFinish, hs] at h <;>
    cases h <;> simp

/-! ### The state after an edge, as a function -/

/-- The state an accepted command leaves. -/
def execState (i : Instr) (s : State) : State :=
  match i with
  | .nop _ => s
  | .start _ => startFrame s
  | .data b => if s.active then loadByte b s else protocolError causeDataIdle s
  | .finish _ => if s.active then publishResult s else protocolError causeFinishIdle s

/-- An accepted command always has its effect; none stops the machine (R127). -/
theorem exec_eq_next (i : Instr) (s : State) : exec i s = .next (execState i s) := by
  cases i <;> simp only [exec, execNop, execStart, execData, execFinish, execState] <;> split <;> rfl

@[simp] theorem execState_inputs (i : Instr) (s : State) : (execState i s).inputs = s.inputs := by
  cases i <;> simp only [execState] <;> first | rfl | (split <;> rfl)

/-- A command does not read the host's list of coming port values. -/
theorem execState_withInputs (i : Instr) (s : State) (ps : List PortSample) :
    execState i (s.withInputs ps) = (execState i s).withInputs ps := by
  cases hs : s.active <;> cases i <;> simp only [execState, withInputs_active, hs] <;> rfl

/-- The state after one rising edge with port values `p`. -/
def edgeState (p : PortSample) (s : State) : State :=
  if p.rst then resetEdge s
  else if s.busy then divideEdge s
  else if p.valid then execState (decodeWord p.word) s
  else s

/-- Every rising edge leaves a next state (R110: "This rule is total over every state and every input"). -/
theorem clockEdge_eq_next (p : PortSample) (s : State) : clockEdge p s = .next (edgeState p s) := by
  unfold clockEdge edgeState
  split
  · rfl
  · split
    · rfl
    · split
      · exact exec_eq_next _ _
      · rfl

/-- Everything a rising edge can do. -/
theorem edgeState_cases (p : PortSample) (s : State) :
    (p.rst = true ∧ edgeState p s = resetEdge s) ∨
    (p.rst = false ∧ s.busy = true ∧ edgeState p s = divideEdge s) ∨
    (p.rst = false ∧ s.busy = false ∧ p.valid = true ∧ edgeState p s = execState (decodeWord p.word) s) ∨
    (p.rst = false ∧ s.busy = false ∧ p.valid = false ∧ edgeState p s = s) := by
  cases h1 : p.rst <;> cases h2 : s.busy <;> cases h3 : p.valid <;> simp [edgeState, h1, h2, h3]

/-- Everything a rising edge can do, with the command it accepts: a reset, a bit-division, nothing, or one command. -/
theorem edgeState_accepted_cases (p : PortSample) (s : State) :
    (p.rst = true ∧ acceptedCommand p s = none ∧ edgeState p s = resetEdge s) ∨
    (p.rst = false ∧ s.busy = true ∧ acceptedCommand p s = none ∧ edgeState p s = divideEdge s) ∨
    (p.rst = false ∧ s.busy = false ∧ acceptedCommand p s = none ∧ edgeState p s = s) ∨
    (p.rst = false ∧ s.busy = false ∧ ∃ i, acceptedCommand p s = some i ∧ edgeState p s = execState i s) := by
  cases h1 : p.rst <;> cases h2 : s.busy <;> cases h3 : p.valid <;>
    simp [edgeState, acceptedCommand, accepts, readyAt, h1, h2, h3]

@[simp] theorem edgeState_inputs (p : PortSample) (s : State) : (edgeState p s).inputs = s.inputs := by
  rcases edgeState_cases p s with ⟨-, h⟩ | ⟨-, -, h⟩ | ⟨-, -, -, h⟩ | ⟨-, -, -, h⟩ <;> simp [h]

/-- An edge does not read the port values of later edges. -/
theorem edgeState_withInputs (p : PortSample) (s : State) (ps : List PortSample) :
    edgeState p (s.withInputs ps) = (edgeState p s).withInputs ps := by
  simp only [edgeState, withInputs_busy, execState_withInputs]
  split
  · rfl
  · split
    · rfl
    · split <;> rfl

/-- One step of the machine is one edge with the port values that come next. -/
theorem step_eq_next (s : State) : step s = .next (edgeState s.port s.popInput) := clockEdge_eq_next _ _

theorem acceptedCommand_eq_some_iff {p : PortSample} {s : State} {i : Instr} :
    acceptedCommand p s = some i ↔ p.rst = false ∧ s.busy = false ∧ p.valid = true ∧ i = decodeWord p.word := by
  unfold acceptedCommand accepts readyAt
  cases p.rst <;> cases s.busy <;> cases p.valid <;> simp [eq_comm]

end Sys2Proof.Machine
end

