-- ==== Sys2Proof/Laws/PerInstr.lean ====
section
/-! SUPPORT. A fact about every command as syntax, one lemma per constructor: its word carries its operation code in CW[9:8]
and its data field in CW[7:0] (spec/30_encoding.md R59, R60). -/

namespace Sys2Proof.Laws.EncodedFields

/-- The fields of the encoded word are the command's. -/
def Statement (i : Instr) : Prop := opField (encode i) = i.op ∧ dataField (encode i) = i.field

theorem fields_of_join (op : BitVec 2) (d : Byte) : opField (joinFields op d) = op ∧ dataField (joinFields op d) = d := by
  refine ⟨BitVec.eq_of_getLsbD_eq fun i hi => ?_, BitVec.eq_of_getLsbD_eq fun i hi => ?_⟩ <;>
    simp only [opField, dataField, joinFields, BitVec.getLsbD_extractLsb', BitVec.getLsbD_append] <;> simp [hi]

theorem nop (reserved : Byte) : Statement (.nop reserved) := fields_of_join _ _
theorem start (reserved : Byte) : Statement (.start reserved) := fields_of_join _ _
theorem data (imm8 : Byte) : Statement (.data imm8) := fields_of_join _ _
theorem finish (reserved : Byte) : Statement (.finish reserved) := fields_of_join _ _

end Sys2Proof.Laws.EncodedFields
end

