-- ==== Sys2Proof/Laws/Run.lean ====
section
/-! SUPPORT. Runs over given port values, as a fold of one-edge updates (spec/41_commands.md R110, R112). -/

namespace Sys2Proof.Machine

/-- The state after one edge per entry of `ps`. -/
def edgesState (ps : List PortSample) (s : State) : State := ps.foldl (fun t p => edgeState p t) s

@[simp] theorem edgesState_nil (s : State) : edgesState [] s = s := rfl
@[simp] theorem edgesState_cons (p : PortSample) (ps : List PortSample) (s : State) :
    edgesState (p :: ps) s = edgesState ps (edgeState p s) := rfl
theorem edgesState_append (ps qs : List PortSample) (s : State) :
    edgesState (ps ++ qs) s = edgesState qs (edgesState ps s) := List.foldl_append

@[simp] theorem edgesState_inputs (ps : List PortSample) (s : State) : (edgesState ps s).inputs = s.inputs := by
  induction ps generalizing s with
  | nil => rfl
  | cons p ps ih => simp [ih]

theorem edgesState_withInputs (ps qs : List PortSample) (s : State) :
    edgesState ps (s.withInputs qs) = (edgesState ps s).withInputs qs := by
  induction ps generalizing s with
  | nil => rfl
  | cons p ps ih => simp [edgeState_withInputs, ih]

/-- A run of one more step, when that step answers a next state. -/
theorem core_run_succ {s t : State} (k : Nat) (h : step s = .next t) :
    Host.Core.run Sys2Proof.core (k + 1) s = Host.Core.run Sys2Proof.core k t := by
  have hcore : Sys2Proof.core.step s = .next t := h
  simp only [Host.Core.run, hcore]

/-- A run over `ps` is the fold, and the host's list is used up. -/
theorem runPorts_eq (ps : List PortSample) (s : State) :
    runPorts ps s = .next ((edgesState ps s).withInputs []) := by
  induction ps generalizing s with
  | nil => rfl
  | cons p ps ih =>
    have hstep : step (s.withInputs (p :: ps)) = .next ((edgeState p s).withInputs ps) := by
      rw [step_eq_next]; simp [edgeState_withInputs]
    have hrun := ih (edgeState p s)
    unfold runPorts at hrun ⊢
    rw [List.length_cons, core_run_succ _ hstep]
    exact hrun

@[simp] theorem acceptedCommands_nil (s : State) : acceptedCommands [] s = [] := rfl

/-- The commands accepted over a run: the first edge's, then those of the rest. -/
theorem acceptedCommands_cons (p : PortSample) (ps : List PortSample) (s : State) :
    acceptedCommands (p :: ps) s = (acceptedCommand p s).toList ++ acceptedCommands ps (edgeState p s) := by
  simp [acceptedCommands, clockEdge_eq_next]

theorem acceptedCommands_append (ps qs : List PortSample) (s : State) :
    acceptedCommands (ps ++ qs) s = acceptedCommands ps s ++ acceptedCommands qs (edgesState ps s) := by
  induction ps generalizing s with
  | nil => rfl
  | cons p ps ih => simp [acceptedCommands_cons, ih]

@[simp] theorem heldSamples_zero (ws : List CmdWord) (s : State) : heldSamples 0 ws s = [] := rfl

/-- The samples of a host that holds its commands: the first word is dropped once it is accepted. -/
theorem heldSamples_succ (k : Nat) (ws : List CmdWord) (s : State) :
    heldSamples (k + 1) ws s =
      presentHead ws :: heldSamples k (if accepts (presentHead ws) s then ws.tail else ws) (edgeState (presentHead ws) s) := by
  simp [heldSamples, clockEdge_eq_next]

theorem noReset_cons {p : PortSample} {ps : List PortSample} : noReset (p :: ps) ↔ p.rst = false ∧ noReset ps := by
  simp [noReset]

theorem noReset_nil : noReset [] := fun _ h => by cases h

end Sys2Proof.Machine
end

