-- ==== Sys2Proof/Tests/Slice0.lean ====
section
/-! SUPPORT. The model's own tests. Expected values are the spec's: the vectors of spec/95_test_vectors.md, named in each comment, or
words written out from spec/30_encoding.md. Then one witness for each statement of Certificates/Slice0/Obligations.lean that
has hypotheses: a concrete state and operands that meet them. -/

namespace Sys2Proof.Tests

open Sys2Proof.Machine

/-! ## States the tests start from -/

/-- The state an outcome carries, if it carries one. -/
def after : Host.Outcome State Fault Refusal → Option State
  | .next t => some t
  | .fault _ => none
  | .refused _ => none

/-- An open frame with remainder `r`. -/
def openFrame (r : Word) : State := { State.reset with active := true, r := r }

/-- An open frame with a byte just accepted. -/
def busyFrame (r : Word) (b : Byte) : State := { openFrame r with sh := b, cnt := 8#4 }

/-- A finished frame, with the first known vector's remainder and checksum. -/
def finished : State := { State.reset with done := true, r := 0x853A#16, result := 0xC57A#16 }

/-- IDLE after a FINISH_IDLE error. -/
def failed : State := { State.reset with err := true, errCause := 0b10#2 }

/-- A host that presents the word `w` at the next edge. -/
def presenting (w : CmdWord) (s : State) : State := s.withInputs [.present w]

/-! ## Well-formedness: each check refuses an ill-formed term -/

theorem test_wellFormed_every_command :
    (Instr.nop 0xFF#8).wellFormed = true ∧ (Instr.start 0xFF#8).wellFormed = true ∧
    (Instr.data 0xFF#8).wellFormed = true ∧ (Instr.finish 0xFF#8).wellFormed = true := by decide
theorem test_canonical_refuses_nop : (Instr.nop 0x7E#8).canonical = false := by decide
theorem test_canonical_refuses_start : (Instr.start 0xFF#8).canonical = false := by decide
theorem test_canonical_refuses_finish : (Instr.finish 0xAB#8).canonical = false := by decide
theorem test_wellFormed_refuses_data_256 : (AsmLine.data 256).wellFormed = false := by decide
theorem test_wellFormed_refuses_cw_1024 : (AsmLine.cw 0x400).wellFormed = false := by decide
theorem test_wellFormed_refuses_odd_hex : (AsmLine.crc16 ['1', '4', '4']).wellFormed = false := by decide
theorem test_wellFormed_refuses_non_hex : (AsmLine.crc16 ['1', 'G']).wellFormed = false := by decide

/-! ## Decoding: words written out bit by bit from spec/30_encoding.md -/

theorem test_decode_nop : decodeWord 0b0001111110#10 = .nop 0x7E#8 := by decide
theorem test_decode_start : decodeWord 0b0111111111#10 = .start 0xFF#8 := by decide
theorem test_decode_data : decodeWord 0b1000010100#10 = .data 0x14#8 := by decide
theorem test_decode_finish : decodeWord 0b1110101011#10 = .finish 0xAB#8 := by decide
theorem test_decode_rejects_eleven_bits : decodeBits 0x400 = .error .notACommandWord := by decide
theorem test_decodeTableWord_rejects_eleven_bits : decodeTableWord 16 0x400 = none := by decide

/-! ## The datapath: spec/95_test_vectors.md sections 2.1 to 2.5 -/

/-- V-BIT-7, V-BIT-9, V-BIT-11, V-BIT-12. -/
theorem test_divStep_vectors :
    divStep 0x7FFF#16 false = 0xFFFE#16 ∧ divStep 0x0001#16 false = 0x0002#16 ∧ divStep 0xC000#16 true = 0x8000#16 ∧
    divStep 0x3D65#16 false = 0x7ACA#16 := by decide
/-- V-BYTE-3, V-BYTE-7, V-BYTE-9. -/
theorem test_byteUpdate_vectors :
    byteUpdate 0x0000#16 0x80#8 = 0x7A6C#16 ∧ byteUpdate 0xFFFF#16 0x00#8 = 0x5348#16 ∧
    byteUpdate 0x1234#16 0x56#8 = 0xFCA2#16 := by decide
/-- V-FIN-5, V-FIN-7. -/
theorem test_finalWord_vectors : finalWord 0x1234#16 = 0xCBED#16 ∧ finalWord 0xFF00#16 = 0xFF00#16 := by decide
/-- V-MSG-6, V-MSG-15. -/
theorem test_crc16_vectors : crc16 [0x80#8] = 0x9385#16 ∧ crc16 [0xA5#8] = 0xF953#16 := by decide
/-- V-MSG-13, two bytes, through the per-byte trace of part 1: 14->646B, 44->759B. -/
theorem test_two_byte_vector :
    byteUpdate 0x646B#16 0x44#8 = 0x759B#16 ∧ finalWord 0x759B#16 = 0x648A#16 := by decide
/-- V-LAW-7 for V-MSG-15: the long division gives the same raw CRC. -/
theorem test_longDiv_vector : longDiv [0xA5#8] = 0xAC06#16 := by decide

/-- V-MSG-2 and V-MSG-4, the flip of bit 0 of the message 00: RawCRC changes by 0x3D65, which is x^0 x^16 mod g(x). -/
theorem test_flip_of_the_last_bit :
    rawCRC ([0x00#8].modify 0 (· ^^^ (1#8 <<< 0))) ^^^ rawCRC [0x00#8] = 0x3D65#16 ∧
    BitVec.ofNat 16 (longDivLoop (8 * 1) ((2 ^ (8 * (1 - 1 - 0) + 0)) <<< 16)) = 0x3D65#16 := by decide

/-! ## The commands: spec/95_test_vectors.md section 2.6 -/

/-- V-CMD-1. -/
theorem test_nop_in_reset : after (step (presenting 0x000#10 .reset)) = some .reset := by decide
/-- V-CMD-2: the data field is ignored. -/
theorem test_nop_ignores_data : after (step (presenting 0x07E#10 (openFrame 0x646B#16))) = some (openFrame 0x646B#16) := by
  decide
/-- V-CMD-4: RESULT is kept, DONE is cleared. -/
theorem test_start_after_finish :
    after (step (presenting 0x100#10 finished)) = some { openFrame 0x0000#16 with result := 0xC57A#16 } := by decide
/-- V-CMD-6: START clears the error. -/
theorem test_start_clears_error : after (step (presenting 0x100#10 failed)) = some (openFrame 0x0000#16) := by decide
/-- V-CMD-7: the accepting edge divides no bit; status = 0x03. -/
theorem test_data_loads_byte :
    (after (step (presenting 0x214#10 (openFrame 0x0000#16)))).map (fun t => (t, t.statusWord)) =
      some (busyFrame 0x0000#16 0x14#8, 0x03#8) := by decide
/-- V-CMD-11: the first error is kept. -/
theorem test_data_idle_keeps_first_cause : after (step (presenting 0x255#10 failed)) = some failed := by decide
/-- V-CMD-14: the checksum is published, the data field is ignored. -/
theorem test_finish_publishes :
    (after (step (presenting 0x3AB#10 (openFrame 0x3D48#16)))).map (fun t => (t.result, t.r, t.statusWord)) =
      some (0xB7C2#16, 0x3D48#16, 0x04#8) := by decide
/-- V-CMD-16: FINISH while IDLE keeps RESULT and DONE; status = 0x2C. -/
theorem test_finish_idle_keeps_result :
    (after (step (presenting 0x300#10 finished))).map (fun t => (t.result, t.statusWord)) =
      some (0xC57A#16, 0x2C#8) := by decide

/-! ## Clock edges: spec/95_test_vectors.md section 2.7 -/

/-- V-CYC-1, edge 6: a bit-division edge does not accept the FINISH presented at it. -/
theorem test_divide_edge :
    after (step (presenting 0x300#10 { openFrame 0x0000#16 with sh := 0xA0#8, cnt := 5#4 })) =
      some { openFrame 0x3D65#16 with sh := 0x40#8, cnt := 4#4 } := by decide
/-- V-CYC-2: reset in the middle of a byte. -/
theorem test_reset_in_a_byte :
    after (step { openFrame 0x47AF#16 with sh := 0xFC#8, cnt := 6#4, inputs := [⟨true, true, 0b10#2, 0xFF#8⟩] }) =
      some .reset := by decide
/-- V-CYC-3: `cmd_ready` is 0 at an edge with `rst = 1`. -/
theorem test_not_ready_in_reset : (State.reset.withInputs [.resetting]).cmdReady = false := by decide
/-- U5: a power-on CNT of 15 counts down. -/
theorem test_cnt_fifteen_counts_down :
    (after (step { State.reset with cnt := 15#4 })).map State.cnt = some 14#4 := by decide

/-! ## The assembler: spec/30_encoding.md section 4 -/

theorem test_parse_data : parseLine "data 0x14 ; a byte".toList = .ok (some (.data 0x14)) := by decide
theorem test_parse_decimal : parseLine "DATA 255".toList = .ok (some (.data 255)) := by decide
theorem test_parse_raw : parseLine ".cw 0x3AB".toList = .ok (some (.cw 0x3AB)) := by decide
/-- The decimal form of a `.cw` operand is the model's choice (notes/assumptions/14.md). -/
theorem test_parse_raw_decimal : parseLine ".cw 939".toList = .ok (some (.cw 0x3AB)) := by decide
theorem test_parse_crc16 : parseLine "CRC16 \"1444\"".toList = .ok (some (.crc16 ['1', '4', '4', '4'])) := by decide
/-- Which error a separator or a `;` between the quotes is: the model's choice (notes/assumptions/15.md). -/
theorem test_parse_crc16_cut_in_the_quotes :
    parseLine "CRC16 \"14 44\"".toList = .error .badLine ∧ parseLine "CRC16 \"14;44\"".toList = .error .badLine := by decide
/-- R68: any other non-hexadecimal character between the quotes is the Malformed-Input error. -/
theorem test_assemble_crc16_malformed :
    assembleText ["CRC16 \"14x4\"".toList] = .error .malformedInput := by decide
theorem test_parse_comment : parseLine "; nothing".toList = .ok none := by decide
theorem test_parse_rejects_unknown : parseLine "JUMP 3".toList = .error .badLine := by decide
/-- P4 of spec/95_test_vectors.md, its last three emitting lines. -/
theorem test_assemble_P4_end :
    assemble [.data 0x14, .cw 0x07E, .cw 0x3AB, .waitDone] = .ok [0x214#10, 0x07E#10, 0x3AB#10] := by decide

/-- P1 of spec/95_test_vectors.md, as text. -/
theorem test_assemble_P1_text :
    assembleText ["START ; 0x100".toList, "".toList, "FINISH".toList, "WAITDONE".toList] = .ok [0x100#10, 0x300#10] := by
  decide
/-- R69: the host's wait is over after a FINISH, and not in the reset state. -/
theorem test_waitOver : finished.waitOver = true ∧ failed.waitOver = true ∧ State.reset.waitOver = false := by decide

/-! ## Witnesses for the hypotheses of the statements -/

theorem witness_inv_open : (openFrame 0x646B#16).Inv := by
  constructor <;> simp [openFrame, State.reset]

theorem witness_inv_busy : (busyFrame 0x646B#16 0x44#8).Inv := by
  constructor <;> simp [busyFrame, openFrame, State.reset]

theorem witness_inv_finished : finished.Inv := by
  constructor <;> simp [finished, State.reset]

theorem witness_inv_failed : failed.Inv := by
  constructor <;> simp [failed, State.reset]

theorem witness_ResetEdgeSetsEveryElement :
    ((busyFrame 0x47AF#16 0xFC#8).withInputs [.resetting]).port.rst = true ∧
    ([PortSample.resetting] ≠ [] ∧ ∀ p ∈ [PortSample.resetting], p.rst = true) ∧
    ((PortSample.present 0x100#10).rst = false ∧ (PortSample.present 0x100#10).valid = true) ∧
    (∀ p ∈ [PortSample.idle, .idle], p.rst = false ∧ p.valid = false) := by decide

theorem witness_StepRunsTheDecodedCommand :
    acceptedCommand (presenting 0x214#10 (openFrame 0x0000#16)).port (presenting 0x214#10 (openFrame 0x0000#16)) =
      some (.data 0x14#8) ∧
    acceptedCommand (presenting 0x300#10 (busyFrame 0x0000#16 0x14#8)).port
      (presenting 0x300#10 (busyFrame 0x0000#16 0x14#8)) = none := by decide

theorem witness_PriorityAtOneEdge :
    ((busyFrame 0x0000#16 0x14#8).cnt ≠ 0#4 ∧ (PortSample.present 0x300#10).rst = false ∧ PortSample.idle.rst = false) ∧
    (finished.cnt = 0#4 ∧ (PortSample.present 0x300#10).rst = false ∧ (PortSample.present 0x300#10).valid = true) ∧
    PortSample.resetting.rst = true ∧
    (after (exec (.data 0x55#8) failed) = some failed ∧ failed.err = true ∧ failed.err = true) := by decide

theorem witness_WithFetchWordRunsTheWord : decodeTableWord 16 0x214 = some (.data 0x14#8) := by decide

theorem witness_DecodeEncodeRoundTrip : (Instr.finish 0xAB#8).wellFormed = true := by decide

theorem witness_ReservedDataFieldIgnored : (PortSample.present 0x3AB#10).op ≠ 0b10#2 := by decide

theorem witness_AssemblerFormsEncode : 255 ≤ 255 ∧ 255 < 256 ∧ 0x3FF ≤ 0x3FF ∧ 0x3FF < 0x400 := by decide

theorem witness_HexPseudoInstructionExpands :
    ∀ p ∈ [('1', '4'), ('a', 'F')], isHexDigit p.1 = true ∧ isHexDigit p.2 = true := by decide

theorem witness_BitStepDividesOneBit :
    (0x8000#16 : Word).extractLsb' 0 15 = (0x0000#16 : Word).extractLsb' 0 15 ∧
    ((0x8000#16 : Word).getLsbD 15 ^^ false) = ((0x0000#16 : Word).getLsbD 15 ^^ true) := by decide

theorem witness_RemainderIsHiddenUntilFinish :
    ((openFrame 0x0001#16).busy = (openFrame 0x646B#16).busy ∧
      (openFrame 0x0001#16).active = (openFrame 0x646B#16).active ∧
      (openFrame 0x0001#16).done = (openFrame 0x646B#16).done ∧ (openFrame 0x0001#16).err = (openFrame 0x646B#16).err ∧
      (openFrame 0x0001#16).errCause = (openFrame 0x646B#16).errCause ∧
      (openFrame 0x0001#16).result = (openFrame 0x646B#16).result) ∧
    (openFrame 0x0001#16).active = true ∧ (openFrame 0x646B#16).active = true ∧
    exec (.finish 0x00#8) (openFrame 0x0001#16) = .next (publishResult (openFrame 0x0001#16)) ∧
    exec (.finish 0xAB#8) (openFrame 0x646B#16) = .next (publishResult (openFrame 0x646B#16)) :=
  ⟨by decide, by decide, by decide, rfl, rfl⟩

theorem witness_FinalisationComplementsAndSwaps :
    (openFrame 0x853A#16).active = true ∧
    exec (.finish 0x00#8) (openFrame 0x853A#16) = .next (publishResult (openFrame 0x853A#16)) :=
  ⟨by decide, rfl⟩

/-- The message is the single bit 1: x^16 = 1 g + 0x3D65. -/
theorem witness_RawChecksumIsThePolynomialRemainder :
    1 < 2 ^ (8 * [0x01#8].length) ∧
    polyMul (8 * [0x01#8].length) 1 0x13D65 ^^^ (0x3D65#16).toNat = messageNumber [0x01#8] <<< 16 := by decide

theorem witness_RawChecksumIsLinear : [0x14#8, 0x44#8].length = [0xAE#8, 0x0C#8].length := by decide

theorem witness_SingleBitFlipChangesTheChecksum : 1 < [0x14#8, 0x44#8].length ∧ 7 < 8 := by decide

theorem witness_NopChangesNothing :
    (PortSample.present 0x07E#10).rst = false ∧ (openFrame 0x646B#16).cnt = 0#4 ∧
    (PortSample.present 0x07E#10).valid = true ∧ (PortSample.present 0x07E#10).op = 0b00#2 := by decide

theorem witness_StartOpensAFrame :
    (busyFrame 0x0000#16 0x14#8).cnt ≠ 0#4 ∧
    (finished.active = false ∧ finished.done = true ∧ finished.r = 0x853A#16 ∧ finished.result = 0xC57A#16) := by decide

theorem witness_DataWhileActiveSuppliesAByte :
    (openFrame 0x0000#16).active = true ∧ exec (.data 0x14#8) (openFrame 0x0000#16) = .next (busyFrame 0x0000#16 0x14#8) ∧
    noReset (List.replicate 7 (.present 0x300#10)) ∧ (List.replicate 7 (PortSample.present 0x300#10)).length < 8 ∧
    noReset (List.replicate 8 (.present 0x300#10)) ∧ (List.replicate 8 (PortSample.present 0x300#10)).length = 8 :=
  ⟨by decide, rfl, by decide, by decide, by decide, by decide⟩

theorem witness_DataWhileIdleIsAnError :
    (finished.active = false ∧ finished.cnt = 0#4 ∧
      exec (.data 0x12#8) finished = .next (protocolError causeDataIdle finished)) ∧
    (noReset [.present 0x212#10, .idle, .present 0x300#10] ∧
      ∀ i ∈ acceptedCommands [.present 0x212#10, .idle, .present 0x300#10] State.reset, i.op ≠ 0b01#2) :=
  ⟨⟨by decide, by decide, rfl⟩, by decide⟩

theorem witness_FinishWhileActivePublishes :
    (openFrame 0x853A#16).active = true ∧ (openFrame 0x853A#16).r = 0x853A#16 ∧
    exec (.start 0x00#8) finished = .next (startFrame finished) ∧ (busyFrame 0x0000#16 0x14#8).cnt ≠ 0#4 ∧
    ((openFrame 0x646B#16).Inv ∧ (openFrame 0x646B#16).active = true) :=
  ⟨by decide, by decide, rfl, by decide, witness_inv_open, by decide⟩

theorem witness_FinishWhileIdleIsAnError :
    ((openFrame 0x853A#16).active = true ∧
      exec (.finish 0x00#8) (openFrame 0x853A#16) = .next (publishResult (openFrame 0x853A#16)) ∧
      exec (.finish 0x00#8) (publishResult (openFrame 0x853A#16)) =
        .next (protocolError causeFinishIdle (publishResult (openFrame 0x853A#16)))) ∧
    (finished.active = false ∧ finished.done = true ∧ finished.result = 0xC57A#16 ∧ finished.err = false) :=
  ⟨⟨by decide, rfl, rfl⟩, by decide⟩

/-- One next state for each shape of command the frame statement names. -/
theorem witness_CommandFrames :
    after (exec (.data 0x14#8) (openFrame 0x0000#16)) = some (busyFrame 0x0000#16 0x14#8) ∧
    after (exec (.finish 0x00#8) failed) = some failed ∧
    after (exec (.start 0x00#8) failed) = some (openFrame 0x0000#16) ∧
    after (exec (.nop 0x7E#8) finished) = some finished := by decide

theorem witness_FlagWriters_RegisterWriters :
    after (step (presenting 0x214#10 (openFrame 0x0000#16))) = some (busyFrame 0x0000#16 0x14#8) := by decide

theorem witness_ErrorCauses :
    (exec (.data 0x12#8) .reset = .next (protocolError causeDataIdle .reset) ∧ State.reset.err = false ∧
      (protocolError causeDataIdle .reset).err = true ∧ State.reset.active = false) ∧
    (exec (.nop 0x00#8) failed = .next failed ∧ (Instr.nop 0x00#8).op = 0b00#2 ∧ failed.err = true) ∧
    failed.errCause ≠ 0b11#2 ∧ (failed.err = false ↔ failed.errCause = 0b00#2) :=
  ⟨⟨rfl, by decide⟩, ⟨rfl, by decide⟩, by decide, by decide⟩

theorem witness_ProtocolErrorHasNoOtherEffect :
    State.reset.err = false ∧ failed.err = true ∧ failed.active = false ∧
    exec (.start 0x00#8) (protocolError 0b01#2 .reset) = .next (startFrame (protocolError 0b01#2 .reset)) :=
  ⟨by decide, by decide, by decide, rfl⟩

theorem witness_OnlyStartOrResetClearsAnError :
    failed.err = true ∧ noReset [.present 0x255#10, .idle, .present 0x300#10] ∧
    (∀ i ∈ acceptedCommands [.present 0x255#10, .idle, .present 0x300#10] failed, i.op ≠ 0b01#2) ∧
    PortSample.resetting.rst = true := by decide

theorem witness_EveryStepKeepsTheInvariants :
    (busyFrame 0x646B#16 0x44#8).Inv ∧
    step (busyFrame 0x646B#16 0x44#8) = .next (divideEdge (busyFrame 0x646B#16 0x44#8)) :=
  ⟨witness_inv_busy, rfl⟩

theorem witness_InvariantsHoldAfterAnyReset :
    PortSample.resetting.rst = true ∧
    runPorts [.resetting, .present 0x100#10] failed = .next (openFrame 0x0000#16) :=
  ⟨by decide, rfl⟩

theorem witness_OutputPorts : (presenting 0x100#10 finished).port.valid = true := by decide

/-- The six rows of the table: open frame for NOP, START, DATA and FINISH, idle for DATA and FINISH. -/
theorem witness_OutputsAfterEachCommand :
    ((openFrame 0x646B#16).Inv ∧ (openFrame 0x646B#16).cnt = 0#4 ∧ (openFrame 0x646B#16).active = true ∧
      after (exec (.nop 0x00#8) (openFrame 0x646B#16)) ≠ none ∧ after (exec (.start 0x00#8) (openFrame 0x646B#16)) ≠ none ∧
      after (exec (.data 0x14#8) (openFrame 0x646B#16)) ≠ none ∧
      after (exec (.finish 0x00#8) (openFrame 0x646B#16)) ≠ none) ∧
    (noReset (List.replicate 8 .idle) ∧ (List.replicate 8 PortSample.idle).length = 8) ∧
    (failed.Inv ∧ failed.cnt = 0#4 ∧ failed.active = false ∧ after (exec (.data 0x14#8) failed) ≠ none ∧
      after (exec (.finish 0x00#8) failed) ≠ none) :=
  ⟨⟨witness_inv_open, by decide⟩, by decide, ⟨witness_inv_failed, by decide⟩⟩

theorem witness_BitDivisionEdges :
    (PortSample.idle.rst = false ∧ (busyFrame 0x0000#16 0x14#8).cnt ≠ 0#4) ∧
    ((openFrame 0x0000#16).active = true ∧
      acceptedCommand (.present 0x214#10) (openFrame 0x0000#16) = some (.data (PortSample.present 0x214#10).data) ∧
      noReset (List.replicate 8 (.present 0x300#10)) ∧ (List.replicate 8 (PortSample.present 0x300#10)).length = 8) := by
  decide

theorem witness_CommandLevelAbstraction :
    (openFrame 0x646B#16).cnt = 0#4 ∧ (openFrame 0x646B#16).sh = 0x00#8 ∧
    noReset [.present 0x244#10, .present 0x300#10] := by decide

/-- The empty frame, with a NOP inside. -/
theorem witness_FrameResultIsTheChecksum :
    noReset [.present 0x100#10, .present 0x07E#10, .present 0x3AB#10] ∧
    isFrame [] (acceptedCommands [.present 0x100#10, .present 0x07E#10, .present 0x3AB#10] State.reset) :=
  ⟨by decide, 0x00#8, 0xAB#8, by decide⟩

theorem witness_RestartForgetsTheOpenFrame :
    noReset [.present 0x100#10, .present 0x100#10, .present 0x300#10] ∧
    acceptedCommands [.present 0x100#10, .present 0x100#10, .present 0x300#10] State.reset =
      [.start 0x00#8] ++ [.start 0x00#8, .finish 0x00#8] ∧
    isFrame [] [.start 0x00#8, .finish 0x00#8] ∧
    (PortSample.resetting.rst = true ∧
      isFrame [] (acceptedCommands [.present 0x100#10, .present 0x300#10] State.reset)) ∧
    runPorts ([.present 0x100#10] ++ [.resetting]) finished = .next .reset :=
  ⟨by decide, by decide, ⟨0x00#8, 0x00#8, by decide⟩, ⟨by decide, 0x00#8, 0x00#8, by decide⟩, rfl⟩

theorem witness_EdgeCounts :
    (openFrame 0x0000#16).cnt = 0#4 ∧ exec (.data 0x14#8) (openFrame 0x0000#16) = .next (busyFrame 0x0000#16 0x14#8) ∧
    noReset (List.replicate 8 (.present 0x300#10)) ∧ (Instr.data 0x14#8).op = 0b10#2 ∧
    (openFrame 0x0000#16).active = true ∧ runPorts [] (busyFrame 0x0000#16 0x14#8) = .next (busyFrame 0x0000#16 0x14#8) :=
  ⟨by decide, rfl, by decide, by decide, by decide, rfl⟩

theorem witness_NoAbortWhileBusy :
    noReset (List.replicate 8 (.present 0x100#10)) ∧
    (List.replicate 8 (PortSample.present 0x100#10)).length ≤ (busyFrame 0x646B#16 0x44#8).cnt.toNat ∧
    (busyFrame 0x646B#16 0x44#8).Inv :=
  ⟨by decide, by decide, witness_inv_busy⟩

theorem witness_IdleCoreHoldsItsState :
    (openFrame 0x646B#16).cnt = 0#4 ∧ ∀ p ∈ [PortSample.idle, ⟨false, false, 0b01#2, 0xFF#8⟩], p.rst = false ∧ p.valid = false := by
  decide

theorem witness_BootThenFrameGivesTheChecksum :
    [PortSample.resetting] ≠ [] ∧ (∀ p ∈ [PortSample.resetting], p.rst = true) ∧ finished.cnt = 0#4 := by decide

theorem witness_RunEndsAtTheLastEdge :
    (finished.cnt = 0#4 ∧ 1 ≤ 1 ∧ 1 ≤ 9 * ([] : List Byte).length + 1 ∧
      runPorts (heldSamples 1 (frameWords []) finished) finished = .next { openFrame 0x0000#16 with result := 0xC57A#16 }) ∧
    (State.reset.cnt = 0#4 ∧ State.reset.active = false) :=
  ⟨⟨by decide, by decide, by decide, rfl⟩, by decide⟩

theorem witness_TimingAndFlagsDoNotDependOnData :
    [PortSample.present 0x214#10].map (fun p => (p.rst, p.valid, p.op)) =
      [PortSample.present 0x2FF#10].map (fun p => (p.rst, p.valid, p.op)) ∧
    (openFrame 0x0001#16).cnt = (openFrame 0x646B#16).cnt ∧ (openFrame 0x0001#16).active = (openFrame 0x646B#16).active ∧
    (openFrame 0x0001#16).done = (openFrame 0x646B#16).done ∧ (openFrame 0x0001#16).err = (openFrame 0x646B#16).err ∧
    (openFrame 0x0001#16).errCause = (openFrame 0x646B#16).errCause := by decide

/-- Two hosts, one of which waits an edge and presents a NOP's word without `cmd_valid`. -/
theorem witness_AcceptedSequenceDeterminesTheState :
    noReset [.present 0x100#10] ∧ noReset [⟨false, false, 0b01#2, 0x00#8⟩, .present 0x100#10] ∧
    acceptedCommands [.present 0x100#10] finished =
      acceptedCommands [⟨false, false, 0b01#2, 0x00#8⟩, .present 0x100#10] finished ∧
    finished.cnt = 0#4 ∧ finished.sh = 0x00#8 ∧
    runPorts [.present 0x100#10] finished = .next { openFrame 0x0000#16 with result := 0xC57A#16 } ∧
    runPorts [⟨false, false, 0b01#2, 0x00#8⟩, .present 0x100#10] finished =
      .next { openFrame 0x0000#16 with result := 0xC57A#16 } ∧
    (openFrame 0x0000#16).cnt = 0#4 :=
  ⟨by decide, by decide, by decide, by decide, by decide, rfl, rfl, by decide⟩

theorem witness_PublishedResultIsStable :
    (noReset [.present 0x255#10, .present 0x300#10] ∧
      ∀ i ∈ acceptedCommands [.present 0x255#10] finished, i.op ≠ 0b11#2) ∧
    (finished.Inv ∧ finished.done = true ∧
      ∀ i ∈ acceptedCommands [.present 0x255#10, .present 0x300#10] finished, i.op ≠ 0b01#2) :=
  ⟨by decide, witness_inv_finished, by decide⟩

end Sys2Proof.Tests
end

section
/-! SUPPORT. The invariants R40 (a) to (g) are kept by every operation on the state, by every rising edge and by every run
(spec/10_state.md section 5). -/

namespace Sys2Proof.Machine

/-- One bit of the shifted register: bit i is bit i - 1, and bit 0 is 0 (R24). -/
theorem shiftByte_getLsbD (sh : Byte) {i : Nat} (hi : i < 8) :
    (shiftByte sh).getLsbD i = (decide (1 ≤ i) && sh.getLsbD (i - 1)) := by
  rw [shiftByte, BitVec.getLsbD_append, BitVec.getLsbD_extractLsb']
  cases i with
  | zero => simp
  | succ k =>
    have hk : k < 7 := by omega
    simp [hk]

/-- A bit-division edge takes one from a counter that is not 0. -/
theorem toNat_sub_one_of_ne_zero {c : BitVec 4} (h : c ≠ 0#4) : (c - 1#4).toNat = c.toNat - 1 := by
  bv_omega

section

variable {s : State}

theorem inv_resetEdge (s : State) : (resetEdge s).Inv := by
  constructor <;> simp

/-- While a byte is being divided the frame is open, and the shift moves one more zero into the low end of SH as CNT falls. -/
theorem inv_divideEdge (h : s.Inv) (hcnt : s.cnt ≠ 0#4) : (divideEdge s).Inv := by
  have hpred : (s.cnt - 1#4).toNat = s.cnt.toNat - 1 := toNat_sub_one_of_ne_zero hcnt
  have hpos : 0 < s.cnt.toNat := by bv_omega
  have hle : s.cnt.toNat ≤ 8 := h.cnt_le
  exact
    { h with
      cnt_le := by simp only [divideEdge_cnt, hpred]; omega
      busy_active := fun _ => h.busy_active hcnt
      sh_low := by
        intro i hi
        rw [divideEdge_cnt, hpred] at hi
        rw [divideEdge_sh, shiftByte_getLsbD _ (by omega)]
        cases i with
        | zero => simp
        | succ k => simpa using h.sh_low k (by omega) }

theorem inv_startFrame (h : s.Inv) : (startFrame s).Inv :=
  { h with
    busy_active := fun _ => rfl
    done_idle := by simp
    err_cause := by simp [causeNone]
    cause_legal := by simp [causeNone]
    active_clean := fun _ => ⟨rfl, rfl⟩ }

/-- A byte is loaded in an open frame only, and all eight bits of SH are then still to be divided. -/
theorem inv_loadByte (h : s.Inv) (hactive : s.active = true) (b : Byte) : (loadByte b s).Inv :=
  { h with
    cnt_le := by simp
    busy_active := fun _ => hactive
    sh_low := fun i hi => by simp at hi }

/-- A checksum is published between bytes, so CNT = 0 and closing the frame leaves no byte in flight. -/
theorem inv_publishResult (h : s.Inv) (hcnt : s.cnt = 0#4) : (publishResult s).Inv :=
  { h with
    busy_active := fun hbusy => absurd hcnt hbusy
    done_idle := fun _ => rfl
    active_clean := fun hopen => by simp at hopen }

/-- A protocol error in IDLE records a legal cause: the one given, or the one already held. -/
theorem inv_protocolError (h : s.Inv) (hactive : s.active = false) {c : BitVec 2} (hnone : c ≠ 0b00#2)
    (hreserved : c ≠ 0b11#2) : (protocolError c s).Inv :=
  { h with
    err_cause := by
      cases herr : s.err
      · simp [herr, hnone]
      · have hheld : s.errCause ≠ 0b00#2 := fun hc => by simp [h.err_cause.mpr hc] at herr
        simp [herr, hheld]
    cause_legal := by
      cases herr : s.err
      · simp [herr, hreserved]
      · simp [herr, h.cause_legal]
    active_clean := fun hopen => by simp [hactive] at hopen }

theorem inv_withInputs (h : s.Inv) (ps : List PortSample) : (s.withInputs ps).Inv := { h with }

/-- An accepted command keeps the invariants; it is accepted at CNT = 0 only. -/
theorem inv_execState (h : s.Inv) (hcnt : s.cnt = 0#4) (i : Instr) : (execState i s).Inv := by
  rcases exec_cases (exec_eq_next i s) with
    ⟨-, -, ht⟩ | ⟨-, -, ht⟩ | ⟨b, -, hactive, ht⟩ | ⟨-, -, hactive, ht⟩ | ⟨-, -, -, ht⟩ | ⟨-, -, hactive, ht⟩ <;> rw [ht]
  · exact h
  · exact inv_startFrame h
  · exact inv_loadByte h hactive b
  · exact inv_protocolError h hactive (by decide) (by decide)
  · exact inv_publishResult h hcnt
  · exact inv_protocolError h hactive (by decide) (by decide)

/-- Every rising edge keeps the invariants (R40). -/
theorem inv_edgeState (h : s.Inv) (p : PortSample) : (edgeState p s).Inv := by
  rcases edgeState_cases p s with ⟨-, ht⟩ | ⟨-, hbusy, ht⟩ | ⟨-, hidle, -, ht⟩ | ⟨-, -, -, ht⟩ <;> rw [ht]
  · exact inv_resetEdge s
  · exact inv_divideEdge h ((busy_eq_true_iff s).mp hbusy)
  · exact inv_execState h ((busy_eq_false_iff s).mp hidle) _
  · exact h

/-- Every run keeps the invariants. -/
theorem inv_edgesState (h : s.Inv) (ps : List PortSample) : (edgesState ps s).Inv := by
  induction ps generalizing s with
  | nil => exact h
  | cons p ps ih => exact ih (inv_edgeState h p)

end

/-- Settles O40: the reset edge establishes the invariants in whatever state it found, and every later edge keeps them. -/
theorem invariantsHoldAfterAnyReset : Obligations.InvariantsHoldAfterAnyReset := by
  intro s t p ps hrst hrun
  have hreset : edgeState p s = resetEdge s := by simp [edgeState, hrst]
  have hinv : ((edgesState (p :: ps) s).withInputs []).Inv := by
    rw [edgesState_cons, hreset]
    exact inv_withInputs (inv_edgesState (inv_resetEdge s) ps) []
  rw [runPorts_eq] at hrun
  cases hrun
  exact ⟨hinv.cnt_le, hinv.busy_active, hinv.done_idle, hinv.err_cause, hinv.cause_legal, hinv.sh_low, hinv.active_clean⟩

end Sys2Proof.Machine
end

section
/-! SUPPORT. The writers of the flags (spec/10_state.md R37): what an edge leaves in an element that a bit-division does not
write, and what no edge reads. -/

namespace Sys2Proof.Machine

section

variable (p : PortSample) (s : State)

/-- An element that a bit-division leaves alone is written by a reset or by the accepted command, and by nothing else. -/
theorem edgeState_field_of_divideEdge {α : Type} (field : State → α) (hdivide : ∀ u, field (divideEdge u) = field u) :
    field (edgeState p s) =
      if p.rst then field (resetEdge s)
      else (acceptedCommand p s).elim (field s) fun i => field (execState i s) := by
  rcases edgeState_accepted_cases p s with
    ⟨hrst, -, ht⟩ | ⟨hrst, -, hacc, ht⟩ | ⟨hrst, -, hacc, ht⟩ | ⟨hrst, -, i, hacc, ht⟩
  · simp [hrst, ht]
  · simp [hrst, hacc, ht, hdivide]
  · simp [hrst, hacc, ht]
  · simp [hrst, hacc, ht]

@[simp] theorem acceptedCommand_popInput : acceptedCommand p s.popInput = acceptedCommand p s := rfl

/-! ### What one command leaves in each flag -/

@[simp] theorem execState_nop (d : Byte) : execState (.nop d) s = s := rfl

@[simp] theorem execState_start (d : Byte) : execState (.start d) s = startFrame s := rfl

@[simp] theorem execState_data_active (b : Byte) : (execState (.data b) s).active = s.active := by
  cases hs : s.active <;> simp [execState, hs]

@[simp] theorem execState_data_done (b : Byte) : (execState (.data b) s).done = s.done := by
  cases hs : s.active <;> simp [execState, hs]

@[simp] theorem execState_data_err (b : Byte) : (execState (.data b) s).err = (!s.active || s.err) := by
  cases hs : s.active <;> simp [execState, hs]

@[simp] theorem execState_data_errCause (b : Byte) :
    (execState (.data b) s).errCause = if s.active || s.err then s.errCause else 0b01#2 := by
  cases hs : s.active <;> simp [execState, hs, causeDataIdle]

@[simp] theorem execState_data_cnt (b : Byte) :
    (execState (.data b) s).cnt = if s.active then 8#4 else s.cnt := by
  cases hs : s.active <;> simp [execState, hs]

@[simp] theorem execState_finish_active (d : Byte) : (execState (.finish d) s).active = false := by
  cases hs : s.active <;> simp [execState, hs]

@[simp] theorem execState_finish_done (d : Byte) : (execState (.finish d) s).done = (s.active || s.done) := by
  cases hs : s.active <;> simp [execState, hs]

@[simp] theorem execState_finish_err (d : Byte) : (execState (.finish d) s).err = (!s.active || s.err) := by
  cases hs : s.active <;> simp [execState, hs]

@[simp] theorem execState_finish_errCause (d : Byte) :
    (execState (.finish d) s).errCause = if s.active || s.err then s.errCause else 0b10#2 := by
  cases hs : s.active <;> simp [execState, hs, causeFinishIdle]

@[simp] theorem execState_finish_cnt (d : Byte) : (execState (.finish d) s).cnt = s.cnt := by
  cases hs : s.active <;> simp [execState, hs]

/-! ### BUSY after an edge -/

/-- From CNT = 0, a command leaves the core busy exactly when it is DATA in an open frame (R102). -/
theorem execState_busy_iff {s : State} (hcnt : s.cnt = 0#4) (i : Instr) :
    (execState i s).busy = true ↔ s.active = true ∧ ∃ b, i = .data b := by
  rw [busy_eq_true_iff]
  cases i with
  | nop d => simp [hcnt]
  | start d => simp [hcnt]
  | data b => cases hs : s.active <;> simp [hs, hcnt]
  | finish d => simp [hcnt]

/-- A bit-division leaves the core busy exactly when more than one bit was left. -/
theorem divideEdge_busy_iff {s : State} (hcnt : s.cnt ≠ 0#4) : (divideEdge s).busy = true ↔ 2 ≤ s.cnt.toNat := by
  rw [busy_eq_true_iff, divideEdge_cnt]
  bv_omega

/-- BUSY after an edge (R26, R37): a byte with a bit still to divide, or a byte accepted in an open frame. -/
theorem edgeState_busy_iff :
    (edgeState p s).busy = true ↔ p.rst = false ∧
      (2 ≤ s.cnt.toNat ∨ (s.active = true ∧ ∃ b, acceptedCommand p s = some (.data b))) := by
  rcases edgeState_accepted_cases p s with
    ⟨hrst, -, ht⟩ | ⟨hrst, hbusy, hacc, ht⟩ | ⟨hrst, hidle, hacc, ht⟩ | ⟨hrst, hidle, i, hacc, ht⟩
  · simp [hrst, ht, busy_eq_true_iff]
  · simp [hrst, hacc, ht, divideEdge_busy_iff ((busy_eq_true_iff s).mp hbusy)]
  · simp [hrst, hacc, ht, hidle, (busy_eq_false_iff s).mp hidle]
  · have hcnt : s.cnt = 0#4 := (busy_eq_false_iff s).mp hidle
    simp [hrst, hacc, ht, hcnt, execState_busy_iff hcnt]

/-! ### DONE and ERR_CAUSE are read by nothing else -/

/-- The state with other values of DONE and ERR_CAUSE. -/
def State.withDoneCause (s : State) (b : Bool) (c : BitVec 2) : State := { s with done := b, errCause := c }

/-- A command's effect on every element but DONE and ERR_CAUSE does not depend on these two. -/
theorem execState_withDoneCause (i : Instr) (b : Bool) (c : BitVec 2) :
    (execState i (s.withDoneCause b c)).withDoneCause (execState i s).done (execState i s).errCause = execState i s := by
  have hactive : (s.withDoneCause b c).active = s.active := rfl
  cases i with
  | nop d => rfl
  | start d => rfl
  | data d => cases hs : s.active <;> simp only [execState, hactive, hs] <;> rfl
  | finish d => cases hs : s.active <;> simp only [execState, hactive, hs] <;> rfl

/-- An edge's effect on every element but DONE and ERR_CAUSE does not depend on these two (R37). -/
theorem edgeState_withDoneCause (b : Bool) (c : BitVec 2) :
    (edgeState p (s.withDoneCause b c)).withDoneCause (edgeState p s).done (edgeState p s).errCause = edgeState p s := by
  have hbusy : (s.withDoneCause b c).busy = s.busy := rfl
  rcases edgeState_cases p s with ⟨hrst, ht⟩ | ⟨hrst, hs, ht⟩ | ⟨hrst, hs, hvalid, ht⟩ | ⟨hrst, hs, hvalid, ht⟩
  · rw [ht]; simp only [edgeState, hrst]; rfl
  · rw [ht]; simp only [edgeState, hrst, hbusy, hs]; rfl
  · rw [ht]; simp only [edgeState, hrst, hbusy, hs, hvalid]; exact execState_withDoneCause s _ b c
  · rw [ht]; simp only [edgeState, hrst, hbusy, hs, hvalid]; rfl

end

/-- Settles O33: a bit-division writes no flag but BUSY, so each flag's next value is that of the reset or of the accepted
command, and no edge reads DONE, nor ERR_CAUSE outside its own capture. -/
theorem flagWriters : Obligations.FlagWriters := by
  refine ⟨fun s t hstep => ?_, fun s t b c hstep => ?_⟩
  · rw [step_eq_next] at hstep
    cases hstep
    have hwritten {α : Type} (flag : State → α) (hdivide : ∀ u, flag (divideEdge u) = flag u) :=
      edgeState_field_of_divideEdge s.port s.popInput flag hdivide
    refine ⟨(hwritten State.active fun _ => rfl).trans ?_, (hwritten State.done fun _ => rfl).trans ?_,
      (hwritten State.err fun _ => rfl).trans ?_, (hwritten State.errCause fun _ => rfl).trans ?_,
      edgeState_busy_iff s.port s.popInput⟩
    all_goals
      rw [acceptedCommand_popInput]
      rcases acceptedCommand s.port s with _ | ⟨_ | _ | _ | _⟩ <;> simp [causeNone]
  · rw [step_eq_next] at hstep
    cases hstep
    exact ⟨_, step_eq_next _, edgeState_withDoneCause s.port s.popInput b c⟩

end Sys2Proof.Machine
end

section
/-! SUPPORT. The output ports (spec/10_state.md R32 to R35). -/

namespace Sys2Proof.Machine

section

variable (s : State)

/-- The status word built bit by bit below ERR_CAUSE (R32). -/
theorem statusWord_eq_concat :
    s.statusWord = ((((0b00#2 ++ s.errCause).concat s.err).concat s.done).concat s.active).concat s.busy := rfl

/-- Bits 0 to 3 of the status word are the four flag ports (R32, R34). -/
theorem flagPorts_eq_statusWord_bits :
    s.flagPorts =
      (s.statusWord.getLsbD 0, s.statusWord.getLsbD 1, s.statusWord.getLsbD 2, s.statusWord.getLsbD 3) := by
  simp [State.flagPorts, statusWord_eq_concat, BitVec.getElem_concat]

/-- From bit 4 up the status word holds ERR_CAUSE, then zeros (R32). -/
theorem statusWord_getLsbD_add_four (i : Nat) : s.statusWord.getLsbD (i + 4) = s.errCause.getLsbD i := by
  simp only [statusWord_eq_concat, BitVec.getLsbD_concat_succ, BitVec.getLsbD_append]
  by_cases hi : i < 2
  · simp [hi]
  · simp [hi, BitVec.getLsbD_of_ge _ i (Nat.le_of_not_lt hi)]

theorem cmdReady_iff : s.cmdReady = true ↔ s.cnt = 0#4 ∧ s.port.rst = false := by
  simp [State.cmdReady, readyAt, busy_eq_false_iff]

end

/-- Settles O41, each bit by reading it off the concatenation of R32. -/
theorem statusWordBits : Obligations.StatusWordBits := by
  refine ⟨fun s => ?_, by decide⟩
  have hflags := flagPorts_eq_statusWord_bits s
  simp only [State.flagPorts, Prod.mk.injEq] at hflags
  obtain ⟨hbusy, hactive, hdone, herr⟩ := hflags
  refine ⟨hbusy.symm, hactive.symm, hdone.symm, herr.symm, ?_, ?_⟩
  · refine BitVec.eq_of_getLsbD_eq fun i hi => ?_
    simp [hi, Nat.add_comm 4 i, statusWord_getLsbD_add_four]
  · refine BitVec.eq_of_getLsbD_eq fun i hi => ?_
    have habove : s.statusWord.getLsbD (6 + i) = s.errCause.getLsbD (2 + i) := by
      rw [← statusWord_getLsbD_add_four]; congr 1; omega
    simp [habove]

/-- Settles O42: with `cmd_valid = 1` the acceptance condition of R99 is `cmd_ready`, and no other port reads the host's list. -/
theorem outputPorts : Obligations.OutputPorts := by
  refine ⟨fun s => ⟨rfl, rfl, rfl, flagPorts_eq_statusWord_bits s⟩, cmdReady_iff, fun s hvalid => ?_,
    fun s ps => ⟨rfl, rfl, rfl⟩⟩
  simp [cmdReady_iff, acceptedCommand_eq_some_iff, busy_eq_false_iff, hvalid, and_comm]

end Sys2Proof.Machine
end

section
/-! SUPPORT. The two fields of a command word: the opcode map as match and mask, and the word of a DATA command as an OR
(spec/30_encoding.md R59 to R62, R67). -/

namespace Sys2Proof

/-- A command word is its two fields side by side (R59). -/
theorem joinFields_opField_dataField (w : CmdWord) : joinFields (opField w) (dataField w) = w := by
  unfold joinFields opField dataField
  rw [BitVec.extractLsb'_append_extractLsb'_eq_extractLsb' (by rfl), BitVec.extractLsb'_eq_self]

/-- Decoding keeps the operation code CW[9:8] (R60). -/
@[simp] theorem decodeWord_op (w : CmdWord) : (decodeWord w).op = opField w := by
  unfold decodeWord
  split_ifs with hnop hstart hdata
  · exact hnop.symm
  · exact hstart.symm
  · exact hdata.symm
  · change 0b11#2 = opField w
    bv_omega

/-- Decoding keeps the data field CW[7:0] (R61). -/
@[simp] theorem decodeWord_field (w : CmdWord) : (decodeWord w).field = dataField w := by
  unfold decodeWord
  split_ifs <;> rfl

/-- A command is its operation code and its data field. -/
theorem Instr.ext_fields {i j : Instr} (hop : i.op = j.op) (hfield : i.field = j.field) : i = j := by
  cases i <;> cases j <;> simp_all [Instr.op, Instr.field]

/-- A word decodes to a command exactly when its two fields are the command's. -/
theorem decodeWord_eq_iff (w : CmdWord) (i : Instr) :
    decodeWord w = i ↔ opField w = i.op ∧ dataField w = i.field := by
  constructor
  · rintro rfl
    simp
  · rintro ⟨hop, hfield⟩
    exact Instr.ext_fields (by simp [hop]) (by simp [hfield])

/-- The mask 0x300 keeps CW[9:8] and clears CW[7:0] (R62). -/
theorem and_opMask_eq_joinFields (w : CmdWord) : w &&& 0x300#10 = joinFields (opField w) 0x00#8 := by
  have hmask : 0x300#10 = joinFields (BitVec.allOnes 2) 0x00#8 := by decide
  calc w &&& 0x300#10
      = joinFields (opField w) (dataField w) &&& joinFields (BitVec.allOnes 2) 0x00#8 := by
        rw [joinFields_opField_dataField, hmask]
    _ = joinFields (opField w &&& BitVec.allOnes 2) (dataField w &&& 0x00#8) := BitVec.and_append
    _ = joinFields (opField w) 0x00#8 := by rw [BitVec.and_allOnes, BitVec.and_zero]

/-- One row of the opcode map (R62): a word matches the row under the mask 0x300 exactly when it decodes to the command that
has the row's operation code and the word's CW[7:0]. -/
theorem and_opMask_eq_iff_decodeWord (w : CmdWord) {row : CmdWord} {i : Instr} (op : BitVec 2)
    (hrow : row = joinFields op 0x00#8) (hop : i.op = op) (hfield : i.field = dataField w) :
    w &&& 0x300#10 = row ↔ decodeWord w = i := by
  rw [and_opMask_eq_joinFields, hrow, joinFields, joinFields, BitVec.append_left_inj, decodeWord_eq_iff, hop, hfield,
    and_iff_left rfl]

/-- The word of `DATA n` is 0x200 OR n (R67). -/
theorem encode_data_ofNat {n : Nat} (hn : n ≤ 255) :
    encode (.data (BitVec.ofNat 8 n)) = 0x200#10 ||| BitVec.ofNat 10 n := by
  have hop : 0x200#10 = joinFields 0b10#2 0x00#8 := by decide
  have hbyte : BitVec.ofNat 10 n = joinFields 0b00#2 (BitVec.ofNat 8 n) := by
    apply BitVec.eq_of_toNat_eq
    have happend : (joinFields 0b00#2 (BitVec.ofNat 8 n)).toNat = _ := BitVec.toNat_append _ _
    simp [happend]
    omega
  calc encode (.data (BitVec.ofNat 8 n))
      = joinFields (0b10#2 ||| 0b00#2) (0x00#8 ||| BitVec.ofNat 8 n) := by rw [BitVec.or_zero, BitVec.zero_or]; rfl
    _ = joinFields 0b10#2 0x00#8 ||| joinFields 0b00#2 (BitVec.ofNat 8 n) := BitVec.or_append.symm
    _ = 0x200#10 ||| BitVec.ofNat 10 n := by rw [hop, hbyte]

namespace Machine

/-- Settles O8, row by row. -/
theorem opcodeMapMatchesTheTable : Obligations.OpcodeMapMatchesTheTable := fun w =>
  ⟨and_opMask_eq_iff_decodeWord w 0b00#2 (by decide) rfl rfl, and_opMask_eq_iff_decodeWord w 0b01#2 (by decide) rfl rfl,
    and_opMask_eq_iff_decodeWord w 0b10#2 (by decide) rfl rfl, and_opMask_eq_iff_decodeWord w 0b11#2 (by decide) rfl rfl,
    decodeWord_op w⟩

end Machine

end Sys2Proof
end

section
/-! SUPPORT. The reading of hexadecimal text, and the assembler's forms (spec/30_encoding.md R66 to R68). -/

namespace Sys2Proof.Machine

/-- A character has no digit value exactly when it is no hexadecimal digit (R68). -/
theorem hexDigitValue_eq_none_iff (c : Char) : hexDigitValue c = none ↔ isHexDigit c = false := by
  have hle (a b : Char) : a ≤ b ↔ a.toNat ≤ b.toNat := Iff.rfl
  simp [hexDigitValue, isHexDigit, hle, and_assoc, ite_eq_iff]

/-- A hexadecimal digit is worth less than 16; what is no digit counts as 0 here. -/
theorem hexDigitValue_getD_lt (c : Char) : (hexDigitValue c).getD 0 < 16 := by
  simp only [hexDigitValue]
  split_ifs <;> simp only [Option.getD_some, Option.getD_none] <;> omega

/-- A hexadecimal digit has the value that `getD` reads. -/
theorem hexDigitValue_eq_some_getD {c : Char} (h : isHexDigit c = true) :
    hexDigitValue c = some ((hexDigitValue c).getD 0) := by
  cases hv : hexDigitValue c with
  | none => simp [(hexDigitValue_eq_none_iff c).mp hv] at h
  | some n => rfl

/-- The number two hexadecimal digits spell, high digit first (R68). -/
def hexPairValue (p : Char × Char) : Nat := 16 * (hexDigitValue p.1).getD 0 + (hexDigitValue p.2).getD 0

theorem hexPairValue_le (p : Char × Char) : hexPairValue p ≤ 255 := by
  have hhigh := hexDigitValue_getD_lt p.1
  have hlow := hexDigitValue_getD_lt p.2
  unfold hexPairValue
  omega

/-- Pairs of hexadecimal digits spell one byte each. -/
theorem decodeHex_flatMap_pairs (ds : List (Char × Char))
    (hds : ∀ p ∈ ds, isHexDigit p.1 = true ∧ isHexDigit p.2 = true) :
    decodeHex (ds.flatMap fun p => [p.1, p.2]) = some (ds.map fun p => BitVec.ofNat 8 (hexPairValue p)) := by
  induction ds with
  | nil => rfl
  | cons p ds ih =>
    obtain ⟨hp, hrest⟩ := List.forall_mem_cons.mp hds
    obtain ⟨hhigh, hlow⟩ := hp
    change decodeHex (p.1 :: p.2 :: ds.flatMap fun p => [p.1, p.2]) = _
    rw [decodeHex, hexDigitValue_eq_some_getD hhigh, hexDigitValue_eq_some_getD hlow, ih hrest]
    rfl

/-- A text of two characters or more spells no bytes exactly when its first pair or the rest does not. -/
theorem decodeHex_cons_cons_eq_none_iff (h l : Char) (rest : List Char) :
    decodeHex (h :: l :: rest) = none ↔
      hexDigitValue h = none ∨ hexDigitValue l = none ∨ decodeHex rest = none := by
  rw [decodeHex]
  cases hexDigitValue h <;> cases hexDigitValue l <;> cases decodeHex rest <;> simp

/-- A text spells no bytes exactly when its length is odd or a character is no hexadecimal digit (R68). -/
theorem decodeHex_eq_none_iff : ∀ hex : List Char,
    decodeHex hex = none ↔ hex.length % 2 = 1 ∨ ∃ c ∈ hex, isHexDigit c = false
  | [] => by simp [decodeHex]
  | [_] => by simp [decodeHex]
  | h :: l :: rest => by
    have hlength : (h :: l :: rest).length % 2 = rest.length % 2 := Nat.add_mod_right rest.length 2
    rw [decodeHex_cons_cons_eq_none_iff, hexDigitValue_eq_none_iff, hexDigitValue_eq_none_iff,
      decodeHex_eq_none_iff rest, hlength]
    simp only [List.exists_mem_cons_iff]
    tauto

/-- `CRC16` emits the frame of the bytes its text spells, and is the Malformed-Input error when it spells none (R68). -/
theorem assembleLine_crc16 (hex : List Char) :
    assembleLine (.crc16 hex) = (decodeHex hex).elim (.error .malformedInput) fun m => .ok (frameWords m) := by
  rw [assembleLine]
  cases decodeHex hex <;> rfl

theorem assembleLine_crc16_eq_malformedInput_iff (hex : List Char) :
    assembleLine (.crc16 hex) = .error .malformedInput ↔ decodeHex hex = none := by
  rw [assembleLine_crc16]
  cases decodeHex hex <;> simp

/-- Settles O12: pairs of digits spell the bytes of a frame, each of whose DATA words is 0x200 OR its byte, and `CRC16` fails
exactly when its text spells no bytes. -/
theorem hexPseudoInstructionExpands : Obligations.HexPseudoInstructionExpands := by
  refine ⟨fun ds hds => ?_, fun hex => ?_, by decide, by decide, by decide, by decide⟩
  · have hdata (p : Char × Char) : encode (.data (BitVec.ofNat 8 (hexPairValue p))) =
        0x200#10 ||| BitVec.ofNat 10 (hexPairValue p) := encode_data_ofNat (hexPairValue_le p)
    rw [assembleLine_crc16, decodeHex_flatMap_pairs ds hds]
    simp only [Option.elim_some, frameWords, List.map_map, Function.comp_def, hdata]
    rfl
  · rw [assembleLine_crc16_eq_malformedInput_iff, decodeHex_eq_none_iff]

/-- Settles O11: the range of each operand decides its line, and the word of `DATA d` is 0x200 OR d. -/
theorem assemblerFormsEncode : Obligations.AssemblerFormsEncode := by
  refine ⟨by decide, by decide, by decide, fun d hd => ?_, fun d hd => ?_, fun v hv => ?_, fun v hv => ?_,
    by decide, by decide, by decide⟩
  · rw [assembleLine, if_pos hd, encode_data_ofNat hd]
  · rw [assembleLine, if_neg (Nat.not_le.mpr hd)]
  · rw [assembleLine, if_pos hv]
  · rw [assembleLine, if_neg (Nat.not_le.mpr hv)]

end Sys2Proof.Machine
end

section
/-! SUPPORT. The bit step and the byte step (spec/40_division.md R78 to R80): the shift as a concatenation, what cancels the
feedback bit, and which remainder and byte a step sends to zero. -/

namespace Sys2Proof.Machine

/-- The shift left by one drops bit 15 and puts 0 in bit 0: {R[14:0], 0} (R78). -/
theorem shiftLeft_one_eq_append (r : Word) : r <<< 1 = (r.extractLsb' 0 15 ++ 0#1 : Word) := by
  refine BitVec.eq_of_getLsbD_eq fun i hi => ?_
  rw [BitVec.getLsbD_shiftLeft, BitVec.getLsbD_append, BitVec.getLsbD_extractLsb']
  cases i with
  | zero => simp
  | succ k =>
    have hk : k < 15 := by omega
    simp [hk, hi]

/-- A bit equal to R[15] makes the feedback bit 0, and the step only shifts. -/
theorem divStep_getLsbD_fifteen (r : Word) : divStep r (r.getLsbD 15) = r <<< 1 := by
  simp [divStep]

/-- The generator has a constant term, so a zero bit divides no remainder but 0x0000 to 0x0000. -/
theorem eq_zero_of_divStep_false_eq_zero {r : Word} (h : divStep r false = 0#16) : r = 0#16 := by
  have hbit (i : Nat) (hi : i < 16) : (divStep r false).getLsbD i = false := by simp [h]
  have htop : r.getLsbD 15 = false := by
    have h0 := hbit 0 (by decide)
    rw [divStep_getLsbD _ _ 0 (by decide)] at h0
    simpa [poly] using h0
  refine BitVec.eq_of_getLsbD_eq fun i hi => ?_
  rw [BitVec.getLsbD_zero]
  by_cases h15 : i = 15
  · rw [h15, htop]
  · have hnext := hbit (i + 1) (by omega)
    rw [divStep_getLsbD _ _ (i + 1) (by omega), htop] at hnext
    simpa using hnext

@[simp] theorem byteUpdate_zero : byteUpdate 0#16 0#8 = 0#16 := by decide

theorem eq_zero_of_byteUpdate_zero_eq_zero {r : Word} (h : byteUpdate r 0#8 = 0#16) : r = 0#16 := by
  simp only [byteUpdate_eq, BitVec.getLsbD_zero] at h
  iterate 8 replace h := eq_zero_of_divStep_false_eq_zero h
  exact h

/-- A byte equal to R[15:8] makes every feedback bit 0, and the byte step only shifts. -/
theorem byteUpdate_highByte (r : Word) : byteUpdate r (r.extractLsb' 8 8) = r <<< 8 := by
  have hstep (k : Nat) (hk : k < 8) :
      divStep (r <<< k) ((r.extractLsb' 8 8).getLsbD (7 - k)) = r <<< (k + 1) := by
    have hbit : (r.extractLsb' 8 8).getLsbD (7 - k) = (r <<< k).getLsbD 15 := by
      rw [BitVec.getLsbD_extractLsb', BitVec.getLsbD_shiftLeft]
      have h1 : 8 + (7 - k) = 15 - k := by omega
      have h2 : ¬ 15 < k := by omega
      have h3 : 7 - k < 8 := by omega
      simp [h1, h2, h3]
    rw [hbit, divStep_getLsbD_fifteen, BitVec.shiftLeft_add]
  have hzero : divStep r ((r.extractLsb' 8 8).getLsbD 7) = r <<< 1 := by simpa using hstep 0 (by decide)
  rw [byteUpdate_eq, hzero, hstep 1 (by decide), hstep 2 (by decide), hstep 3 (by decide), hstep 4 (by decide),
    hstep 5 (by decide), hstep 6 (by decide), hstep 7 (by decide)]

/-- Settles O13: the shift written as {R[14:0], 0}, and the addition of (0x8000, 1), which the step sends to zero. -/
theorem bitStepDividesOneBit : Obligations.BitStepDividesOneBit := by
  have hsum (r : Word) (b : Bool) : divStep r b =
      (r.extractLsb' 0 15 ++ 0#1 : Word) ^^^ (if (r.getLsbD 15 ^^ b) = true then 0x3D65#16 else 0x0000#16) := by
    rw [divStep_eq_xor, shiftLeft_one_eq_append, poly]
  refine ⟨fun _ _ => rfl, hsum, fun r r' b b' hlow hfeedback => ?_, fun r b => ?_,
    by decide, by decide, by decide, by decide, by decide, by decide, by decide, by decide⟩
  · rw [hsum, hsum, hlow, hfeedback]
  · have hflip : divStep 0x8000#16 true = 0#16 := by decide
    calc divStep (r ^^^ 0x8000#16) (!b) = divStep (r ^^^ 0x8000#16) (b ^^ true) := by rw [Bool.xor_true]
      _ = divStep r b := by rw [divStep_xor, hflip, BitVec.xor_zero]

/-- Settles O14: the byte step is written as the fold over bits 7 down to 0. -/
theorem byteStepDividesMostSignificantBitFirst : Obligations.ByteStepDividesMostSignificantBitFirst :=
  ⟨byteUpdate_eq, by decide, by decide, by decide, by decide, by decide⟩

end Sys2Proof.Machine
end

section
/-! SUPPORT. The fold over a message (spec/40_division.md R81, R90, R91): its split at any point, its bits, its
additivity, and zero bytes. -/

namespace Sys2Proof.Machine

theorem msgFold_append (r : Word) (a b : List Byte) : msgFold r (a ++ b) = msgFold (msgFold r a) b := by
  induction a generalizing r with
  | nil => rfl
  | cons d a ih => exact ih (byteUpdate r d)

theorem rawCRC_append (a b : List Byte) : rawCRC (a ++ b) = msgFold (rawCRC a) b := msgFold_append _ a b

@[simp] theorem rawCRC_nil : rawCRC [] = 0#16 := rfl

/-- One bit step per message bit, in the order of R45. -/
theorem msgFold_eq_foldl_divStep (r : Word) (m : List Byte) :
    msgFold r m = (m.flatMap bitsMsbFirst).foldl divStep r := by
  induction m generalizing r with
  | nil => rfl
  | cons d m ih => rw [msgFold_cons, ih, List.flatMap_cons, List.foldl_append, byteUpdate]

theorem length_flatMap_bitsMsbFirst (m : List Byte) : (m.flatMap bitsMsbFirst).length = 8 * m.length := by
  induction m with
  | nil => rfl
  | cons d m ih => rw [List.flatMap_cons, List.length_append, ih, bitsMsbFirst_length, List.length_cons]; omega

/-- The fold is additive in the remainder and the message together. -/
theorem msgFold_xor (r r' : Word) {a b : List Byte} (hlen : a.length = b.length) :
    msgFold (r ^^^ r') (List.zipWith (· ^^^ ·) a b) = msgFold r a ^^^ msgFold r' b := by
  induction a generalizing b r r' with
  | nil =>
    obtain rfl : b = [] := List.length_eq_zero_iff.mp hlen.symm
    rfl
  | cons d a ih =>
    cases b with
    | nil => cases hlen
    | cons e b => rw [List.zipWith_cons_cons, msgFold_cons, byteUpdate_xor, ih _ _ (Nat.succ.inj hlen)]; rfl

theorem rawCRC_xor {a b : List Byte} (hlen : a.length = b.length) :
    rawCRC (List.zipWith (· ^^^ ·) a b) = rawCRC a ^^^ rawCRC b :=
  msgFold_xor initialRemainder initialRemainder hlen

/-- The all-zero message is neutral for the bytewise sum. -/
theorem zipWith_xor_replicate_zero (m : List Byte) :
    List.zipWith (· ^^^ ·) (List.replicate m.length 0#8) m = m := by
  induction m with
  | nil => rfl
  | cons d m ih => rw [List.length_cons, List.replicate_succ, List.zipWith_cons_cons, ih, BitVec.zero_xor]

@[simp] theorem msgFold_zero_replicate_zero (k : Nat) : msgFold 0#16 (List.replicate k 0#8) = 0#16 := by
  induction k with
  | zero => rfl
  | succ k ih => rw [List.replicate_succ, msgFold_cons, byteUpdate_zero, ih]

@[simp] theorem rawCRC_replicate_zero (k : Nat) : rawCRC (List.replicate k 0#8) = 0#16 := msgFold_zero_replicate_zero k

/-- Trailing zero bytes send no remainder but 0x0000 to 0x0000. -/
theorem eq_zero_of_msgFold_replicate_zero_eq_zero {r : Word} {k : Nat}
    (h : msgFold r (List.replicate k 0#8) = 0#16) : r = 0#16 := by
  induction k generalizing r with
  | zero => exact h
  | succ k ih => exact eq_zero_of_byteUpdate_zero_eq_zero (ih h)

/-- Leading zero bytes are invisible (R90). -/
theorem rawCRC_replicate_zero_append (k : Nat) (m : List Byte) : rawCRC (List.replicate k 0#8 ++ m) = rawCRC m := by
  rw [rawCRC_append, rawCRC_replicate_zero]; rfl

/-- The example of R81 and R91. -/
theorem rawCRC_example : rawCRC [0x14#8, 0x44#8] = 0x759B#16 := by
  simp [rawCRC, initialRemainder, byteUpdate_eq, divStep, poly]

/-- Settles O15: the fold splits at any point, and at every byte into eight bit steps. -/
theorem messageFoldOverBytes : Obligations.MessageFoldOverBytes := by
  have hfirst : byteUpdate 0x0000#16 0x14#8 = 0x646B#16 := by decide
  have hsteps : rawCRC [0x14#8, 0x44#8] = byteUpdate 0x646B#16 0x44#8 := by
    rw [rawCRC, initialRemainder, msgFold_cons, hfirst, msgFold_cons, msgFold_nil]
  exact ⟨msgFold_nil, msgFold_cons, fun _ => rfl, msgFold_append,
    fun r m => ⟨msgFold_eq_foldl_divStep r m, length_flatMap_bitsMsbFirst m⟩, hsteps, rawCRC_example⟩

/-- Settles O22: the remainder stays 0x0000 through zero bytes; `[]` and `[0x00]` share a checksum. -/
theorem leadingZeroBytesAreInvisible : Obligations.LeadingZeroBytesAreInvisible := by
  have hzeros (k : Nat) (m : List Byte) : crc16 (List.replicate k 0x00#8 ++ m) = crc16 m := by
    rw [crc16, rawCRC_replicate_zero_append, crc16]
  have hexample : crc16 [0x14#8] = 0x949B#16 := by decide
  refine ⟨hzeros, divStep_zero, fun k => ?_, (hzeros 1 [0x14#8]).trans hexample, hexample, fun hinj => ?_⟩
  · rw [crc16, rawCRC_replicate_zero]; decide
  · exact absurd (hinj [] [0x00#8] (hzeros 1 []).symm) (by decide)

/-- Settles O23: the fold is additive, and the all-zero message is neutral for the bytewise sum. -/
theorem rawChecksumIsLinear : Obligations.RawChecksumIsLinear := by
  have hsecond : rawCRC [0xAE#8, 0x0C#8] = 0x5601#16 := by
    simp [rawCRC, initialRemainder, byteUpdate_eq, divStep, poly]
  have hsum : rawCRC [0xBA#8, 0x48#8] = 0x239A#16 := by
    simp [rawCRC, initialRemainder, byteUpdate_eq, divStep, poly]
  refine ⟨fun a b hlen => rawCRC_xor hlen, fun r m => ?_, rawCRC_example, hsecond, hsum, by decide⟩
  calc msgFold r m
      = msgFold (r ^^^ initialRemainder) (List.zipWith (· ^^^ ·) (List.replicate m.length 0#8) m) := by
        rw [zipWith_xor_replicate_zero, initialRemainder, BitVec.xor_zero]
    _ = msgFold r (List.replicate m.length 0x00#8) ^^^ rawCRC m := msgFold_xor r _ List.length_replicate

end Sys2Proof.Machine
end

section
/-! SUPPORT. The long division (spec/40_division.md R84): each turn of its loop is one bit step of the divider. -/

namespace Sys2Proof.Machine

/-- The number whose binary digits are the given bits, most significant first. -/
def bitsNumber : List Bool → Nat
  | [] => 0
  | b :: bs => b.toNat <<< bs.length ^^^ bitsNumber bs

@[simp] theorem bitsNumber_nil : bitsNumber [] = 0 := rfl

theorem bitsNumber_cons (b : Bool) (bs : List Bool) :
    bitsNumber (b :: bs) = b.toNat <<< bs.length ^^^ bitsNumber bs := rfl

theorem bitsNumber_append (as bs : List Bool) :
    bitsNumber (as ++ bs) = bitsNumber as <<< bs.length ^^^ bitsNumber bs := by
  induction as with
  | nil => simp
  | cons a as ih =>
    rw [List.cons_append, bitsNumber_cons, bitsNumber_cons, ih, List.length_append, Nat.shiftLeft_add,
      Nat.shiftLeft_xor_distrib, Nat.xor_assoc]

theorem bitsNumber_lt (bs : List Bool) : bitsNumber bs < 2 ^ bs.length := by
  induction bs with
  | nil => decide
  | cons b bs ih =>
    have htop : b.toNat <<< bs.length < 2 ^ (bs.length + 1) := by
      rw [Nat.shiftLeft_eq, Nat.pow_succ, Nat.mul_comm]
      exact Nat.mul_lt_mul_of_pos_left b.toNat_lt (Nat.two_pow_pos _)
    exact Nat.xor_lt_two_pow htop (ih.trans (Nat.pow_lt_pow_succ (by decide)))

/-- The bits of a byte in the order of R45 spell the byte. -/
theorem bitsNumber_bitsMsbFirst (d : Byte) : bitsNumber (bitsMsbFirst d) = d.toNat := by
  decide +revert

/-- Appending a byte to a number, as a sum without carries. -/
theorem mul_256_add_eq_xor (v : Nat) (d : Byte) : v * 256 + d.toNat = v <<< 8 ^^^ d.toNat := by
  refine Nat.eq_of_testBit_eq fun i => ?_
  rw [Nat.mul_comm, Nat.testBit_two_pow_mul_add (i := 8) v d.isLt, Nat.testBit_xor, Nat.testBit_shiftLeft]
  by_cases hi : i < 8
  · simp [hi, Nat.not_le.mpr hi]
  · have hbyte : d.toNat.testBit i = false := BitVec.getLsbD_of_ge d i (Nat.le_of_not_lt hi)
    simp [hi, Nat.le_of_not_lt hi, hbyte]

/-- The number of a message (R14) is spelled by its bits in the order they are divided. -/
theorem messageNumber_eq_bitsNumber (m : List Byte) : messageNumber m = bitsNumber (m.flatMap bitsMsbFirst) := by
  induction m using List.reverseRecOn with
  | nil => rfl
  | append_singleton m d ih =>
    calc messageNumber (m ++ [d])
        = messageNumber m * 256 + d.toNat := List.foldl_append
      _ = bitsNumber (m.flatMap bitsMsbFirst) <<< 8 ^^^ bitsNumber (bitsMsbFirst d) := by
        rw [mul_256_add_eq_xor, ih, bitsNumber_bitsMsbFirst]
      _ = bitsNumber ((m ++ [d]).flatMap bitsMsbFirst) := by
        rw [List.flatMap_append, List.flatMap_singleton, bitsNumber_append, bitsMsbFirst_length]

/-- POLY is the generator without its x^16 term (R77). -/
theorem poly_getLsbD {i : Nat} (hi : i < 16) : poly.getLsbD i = generator17.testBit i := by
  decide +revert

/-- The generator has degree 16 (R77). -/
theorem generator17_testBit_of_gt {i : Nat} (hi : 16 < i) : generator17.testBit i = false :=
  Nat.testBit_lt_two_pow (calc generator17 < 2 ^ 17 := by decide
    _ ≤ 2 ^ i := Nat.pow_le_pow_right (by decide) hi)

/-- The bit step over 17 bits: the shifted remainder, the bit at x^16, and the whole generator where the feedback bit,
the coefficient of x^16, is 1 (R86). -/
theorem divStep_toNat (r : Word) (b : Bool) :
    (divStep r b).toNat =
      r.toNat <<< 1 ^^^ b.toNat <<< 16 ^^^ (if r.getLsbD 15 ^^ b then generator17 else 0) := by
  refine Nat.eq_of_testBit_eq fun i => ?_
  have hgenerator : (if r.getLsbD 15 ^^ b then generator17 else 0).testBit i =
      ((r.getLsbD 15 ^^ b) && generator17.testBit i) := by
    cases r.getLsbD 15 ^^ b <;> simp
  rw [Nat.testBit_xor, Nat.testBit_xor, Nat.testBit_shiftLeft, Nat.testBit_shiftLeft, hgenerator,
    BitVec.testBit_toNat, BitVec.testBit_toNat]
  rcases Nat.lt_trichotomy i 16 with hlt | rfl | hgt
  · rw [divStep_getLsbD r b i hlt, poly_getLsbD hlt]
    simp [Nat.not_le.mpr hlt]
  · have htop : generator17.testBit 16 = true := by decide
    rw [BitVec.getLsbD_of_ge _ _ (Nat.le_refl 16), htop]
    cases r.getLsbD 15 <;> cases b <;> rfl
  · have hbit : b.toNat.testBit (i - 16) = false :=
      Nat.testBit_lt_two_pow (b.toNat_lt.trans_le (Nat.le_self_pow (Nat.sub_ne_zero_of_lt hgt) 2))
    rw [BitVec.getLsbD_of_ge _ _ hgt.le, BitVec.getLsbD_of_ge r (i - 1) (by omega), hbit, generator17_testBit_of_gt hgt]
    simp

/-- One turn of the long division, on the remainder `r` of the bits so far, the next bit `b` and the bits `bs` after it: the bit
under test is the feedback bit, and what the turn leaves is the bit step's remainder over `bs`. -/
theorem longDivLoop_succ_eq_divStep (r : Word) (b : Bool) (bs : List Bool) :
    longDivLoop (bs.length + 1) (r.toNat <<< (bs.length + 1) ^^^ bitsNumber (b :: bs) <<< 16) =
      longDivLoop bs.length ((divStep r b).toNat <<< bs.length ^^^ bitsNumber bs <<< 16) := by
  have hrest : (bitsNumber bs).testBit bs.length = false := Nat.testBit_lt_two_pow (bitsNumber_lt bs)
  have htest : (r.toNat <<< (bs.length + 1) ^^^ bitsNumber (b :: bs) <<< 16).testBit (bs.length + 16) =
      (r.getLsbD 15 ^^ b) := by
    have hindex : bs.length + 16 - (bs.length + 1) = 15 := by omega
    rw [Nat.testBit_xor, Nat.testBit_shiftLeft, Nat.testBit_shiftLeft, bitsNumber_cons, Nat.testBit_xor,
      Nat.add_sub_cancel, Nat.testBit_shiftLeft, hrest, hindex, BitVec.testBit_toNat]
    cases b <;> simp
  rw [longDivLoop, htest, divStep_toNat]
  congr 1
  rw [bitsNumber_cons]
  cases r.getLsbD 15 ^^ b <;>
    simp [Nat.shiftLeft_xor_distrib, ← Nat.shiftLeft_add, Nat.add_comm, Nat.xor_assoc, Nat.xor_comm, Nat.xor_left_comm]

/-- The long division of the bits `bs` after the remainder `r` is the fold of the bit step. -/
theorem longDivLoop_eq_foldl_divStep (r : Word) (bs : List Bool) :
    longDivLoop bs.length (r.toNat <<< bs.length ^^^ bitsNumber bs <<< 16) = (bs.foldl divStep r).toNat := by
  induction bs generalizing r with
  | nil => simp [longDivLoop]
  | cons b bs ih => rw [List.length_cons, longDivLoop_succ_eq_divStep, ih, List.foldl_cons]

/-- The loop of the long division leaves the raw CRC (R86). -/
theorem longDivLoop_messageNumber (m : List Byte) :
    longDivLoop (8 * m.length) (messageNumber m <<< 16) = (rawCRC m).toNat := by
  have hloop := longDivLoop_eq_foldl_divStep 0#16 (m.flatMap bitsMsbFirst)
  rw [length_flatMap_bitsMsbFirst, ← messageNumber_eq_bitsNumber, ← msgFold_eq_foldl_divStep] at hloop
  simpa [rawCRC, initialRemainder] using hloop

theorem rawCRC_eq_longDiv (m : List Byte) : rawCRC m = longDiv m := by
  rw [longDiv, longDivLoop_messageNumber, BitVec.ofNat_toNat, BitVec.setWidth_eq]

end Sys2Proof.Machine
end

section
/-! SUPPORT. The complement, the byte swap and the checksum (spec/40_division.md R82 to R85, R88), with the remainders of the
source's vectors. -/

namespace Sys2Proof.Machine

/-- The two bytes of a word are exchanged (R12). -/
theorem swap16_highByte (v : Word) : (swap16 v).extractLsb' 8 8 = v.extractLsb' 0 8 := BitVec.extractLsb'_append_eq_left

theorem swap16_lowByte (v : Word) : (swap16 v).extractLsb' 0 8 = v.extractLsb' 8 8 := BitVec.extractLsb'_append_eq_right

/-- Complement and byte swap undo themselves. -/
theorem finalWord_finalWord (r : Word) : finalWord (finalWord r) = r := by
  have hones : swap16 xorOut = xorOut := by decide
  rw [finalWord, finalWord, complement, complement, swap16_xor, swap16_swap16, hones, BitVec.xor_assoc, BitVec.xor_self,
    BitVec.xor_zero]

theorem finalWord_inj {r r' : Word} : finalWord r = finalWord r' ↔ r = r' :=
  (Function.LeftInverse.injective finalWord_finalWord).eq_iff

theorem complement_eq_zero_iff (r : Word) : complement r = 0x0000#16 ↔ r = 0xFFFF#16 := BitVec.xor_eq_zero_iff

/-- Settles O16: the bytes of the swapped complement, and the state FINISH leaves. -/
theorem finalisationComplementsAndSwaps : Obligations.FinalisationComplementsAndSwaps := by
  refine ⟨fun _ => rfl, fun m => complement_eq_zero_iff (rawCRC m), fun r => ⟨swap16_highByte _, swap16_lowByte _⟩,
    fun d s t hactive ht => ?_, by decide, by decide, by decide, by decide, by decide⟩
  rw [exec_finish_active d hactive] at ht
  cases ht
  exact publishResult_result s

/-- Settles O21: `finalWord` is injective and takes 0x0000 to 0xFFFF. -/
theorem emptyMessageFixesTheInitialRemainder : Obligations.EmptyMessageFixesTheInitialRemainder := by
  refine ⟨rawCRC_nil, by decide, rfl, by decide, by decide, fun init => ?_⟩
  have hzero : finalWord 0x0000#16 = 0xFFFF#16 := by decide
  rw [msgFold_nil, ← hzero, finalWord_inj]

/-! ### The source's vectors (spec/95_test_vectors.md V-SRC-1 to V-SRC-3) -/

/-- The message of V-SRC-1. -/
def sourceVector1 : List Byte :=
  [0x14#8, 0x44#8, 0xAE#8, 0x0C#8, 0x78#8, 0x56#8, 0x34#8, 0x12#8, 0x01#8, 0x07#8, 0x8C#8, 0x20#8, 0x27#8, 0x78#8,
    0x0B#8, 0x13#8, 0x43#8, 0x65#8, 0x87#8]

/-- The message of V-SRC-2. -/
def sourceVector2 : List Byte :=
  [0x79#8, 0x13#8, 0x8C#8, 0x79#8, 0x76#8, 0xCE#8] ++ List.replicate 7 0x00#8 ++ 0x04#8 :: List.replicate 7 0x00#8

/-- The message of V-SRC-3. -/
def sourceVector3 : List Byte :=
  [0x79#8, 0x13#8, 0x8C#8, 0x44#8, 0x91#8, 0xCE#8] ++ List.replicate 7 0x00#8 ++ 0x03#8 :: List.replicate 7 0x00#8

theorem rawCRC_sourceVector1 : rawCRC sourceVector1 = 0x853A#16 := by
  simp [sourceVector1, rawCRC, initialRemainder, byteUpdate_eq, divStep, poly]

theorem rawCRC_sourceVector2 : rawCRC sourceVector2 = 0xAD44#16 := by
  simp [sourceVector2, List.replicate, rawCRC, initialRemainder, byteUpdate_eq, divStep, poly]

theorem rawCRC_sourceVector3 : rawCRC sourceVector3 = 0x8FEE#16 := by
  simp [sourceVector3, List.replicate, rawCRC, initialRemainder, byteUpdate_eq, divStep, poly]

/-- The check string "123456789" (R85). -/
theorem rawCRC_checkString :
    rawCRC [0x31#8, 0x32#8, 0x33#8, 0x34#8, 0x35#8, 0x36#8, 0x37#8, 0x38#8, 0x39#8] = 0x3D48#16 := by
  simp [rawCRC, initialRemainder, byteUpdate_eq, divStep, poly]

/-- A checksum from a raw CRC. -/
theorem crc16_eq_of_rawCRC_eq {m : List Byte} {r c : Word} (hraw : rawCRC m = r) (hfinal : finalWord r = c) :
    crc16 m = c := by
  rw [crc16, hraw, hfinal]

/-- Settles O17: the checksum by its definition, and the vectors from their raw CRCs. -/
theorem checksumFunctionAndKnownVectors : Obligations.ChecksumFunctionAndKnownVectors :=
  ⟨fun _ => ⟨rfl, rfl, swap16_highByte _, swap16_lowByte _⟩, crc16_eq_of_rawCRC_eq rawCRC_checkString (by decide),
    rawCRC_checkString, by decide, by decide, crc16_eq_of_rawCRC_eq rawCRC_sourceVector1 (by decide),
    crc16_eq_of_rawCRC_eq rawCRC_sourceVector2 (by decide), crc16_eq_of_rawCRC_eq rawCRC_sourceVector3 (by decide)⟩

/-- Settles O19: the loop of the long division is the fold of the bit step, so the vectors' raw CRCs are their long divisions. -/
theorem bitSerialEqualsLongDivision : Obligations.BitSerialEqualsLongDivision :=
  ⟨rawCRC_eq_longDiv, (rawCRC_eq_longDiv sourceVector1).symm.trans rawCRC_sourceVector1,
    (rawCRC_eq_longDiv sourceVector2).symm.trans rawCRC_sourceVector2,
    (rawCRC_eq_longDiv sourceVector3).symm.trans rawCRC_sourceVector3⟩

end Sys2Proof.Machine
end

section
/-! SUPPORT. What one flipped bit adds to the raw CRC (spec/40_division.md R92). -/

namespace Sys2Proof.Machine

/-- The message of `n` bytes that is zero but for the byte `d` at index `j`. -/
def singleByte (n j : Nat) (d : Byte) : List Byte :=
  List.replicate j 0#8 ++ d :: List.replicate (n - 1 - j) 0#8

theorem singleByte_length {n j : Nat} (hj : j < n) (d : Byte) : (singleByte n j d).length = n := by
  simp only [singleByte, List.length_append, List.length_cons, List.length_replicate]
  omega

/-- Adding `d` to one byte of a message adds the message that holds `d` alone. -/
theorem modify_xor_eq_zipWith_singleByte {m : List Byte} {j : Nat} (hj : j < m.length) (d : Byte) :
    m.modify j (· ^^^ d) = List.zipWith (· ^^^ ·) (singleByte m.length j d) m := by
  induction m generalizing j with
  | nil => cases hj
  | cons e m ih =>
    cases j with
    | zero =>
      change (e ^^^ d) :: m = (d ^^^ e) :: List.zipWith (· ^^^ ·) (List.replicate m.length 0#8) m
      rw [zipWith_xor_replicate_zero, BitVec.xor_comm]
    | succ j =>
      have htail : singleByte (e :: m).length (j + 1) d = 0#8 :: singleByte m.length j d := by
        simp [singleByte, List.replicate_succ, Nat.sub_sub, Nat.add_comm]
      rw [htail, List.modify_succ_cons, ih (Nat.lt_of_succ_lt_succ hj), List.zipWith_cons_cons, BitVec.zero_xor]

theorem rawCRC_modify_xor {m : List Byte} {j : Nat} (hj : j < m.length) (d : Byte) :
    rawCRC (m.modify j (· ^^^ d)) ^^^ rawCRC m = rawCRC (singleByte m.length j d) := by
  rw [modify_xor_eq_zipWith_singleByte hj, rawCRC_xor (singleByte_length hj d), BitVec.xor_assoc, BitVec.xor_self,
    BitVec.xor_zero]

/-- The number of a message (R14), split at any point. -/
theorem messageNumber_append (a b : List Byte) :
    messageNumber (a ++ b) = messageNumber a <<< (8 * b.length) ^^^ messageNumber b := by
  rw [messageNumber_eq_bitsNumber, messageNumber_eq_bitsNumber, messageNumber_eq_bitsNumber, List.flatMap_append,
    bitsNumber_append, length_flatMap_bitsMsbFirst]

@[simp] theorem messageNumber_replicate_zero (k : Nat) : messageNumber (List.replicate k 0#8) = 0 := by
  induction k with
  | zero => rfl
  | succ k ih => rw [List.replicate_succ', messageNumber_append, ih]; rfl

theorem messageNumber_singleByte (n j : Nat) (d : Byte) :
    messageNumber (singleByte n j d) = d.toNat <<< (8 * (n - 1 - j)) := by
  have hbyte : messageNumber [d] = d.toNat := Nat.zero_add _
  rw [singleByte, ← List.singleton_append, messageNumber_append, messageNumber_append, messageNumber_replicate_zero,
    messageNumber_replicate_zero, hbyte, List.length_replicate]
  simp

theorem toNat_singleBit : ∀ i < 8, (1#8 <<< i).toNat = 2 ^ i := by
  decide

/-- No byte with one bit set is divided to 0x0000. -/
theorem byteUpdate_singleBit_ne_zero : ∀ i < 8, byteUpdate 0#16 (1#8 <<< i) ≠ 0#16 := by
  decide

theorem rawCRC_singleByte_singleBit_ne_zero (n j : Nat) {i : Nat} (hi : i < 8) :
    rawCRC (singleByte n j (1#8 <<< i)) ≠ 0#16 := by
  intro h
  rw [singleByte, rawCRC_replicate_zero_append] at h
  exact byteUpdate_singleBit_ne_zero i hi (eq_zero_of_msgFold_replicate_zero_eq_zero h)

/-- Settles O24: the flip adds the raw CRC of the message with that bit alone, which is the long division of its number and is
not zero, and `finalWord` is injective. -/
theorem singleBitFlipChangesTheChecksum : Obligations.SingleBitFlipChangesTheChecksum := by
  intro m j i hj hi
  have hflip := rawCRC_modify_xor hj (1#8 <<< i)
  have hne := rawCRC_singleByte_singleBit_ne_zero m.length j hi
  have hbit : (1#8 <<< i).toNat <<< (8 * (m.length - 1 - j)) = 2 ^ (8 * (m.length - 1 - j) + i) := by
    rw [toNat_singleBit i hi, Nat.shiftLeft_eq, ← Nat.pow_add, Nat.add_comm]
  refine ⟨fun hcrc => ?_, ?_, hflip ▸ hne⟩
  · rw [finalWord_inj.mp hcrc, BitVec.xor_self] at hflip
    exact hne hflip.symm
  · rw [hflip, rawCRC_eq_longDiv, longDiv, singleByte_length hj, messageNumber_singleByte, hbit]

end Sys2Proof.Machine
end

section
/-! SUPPORT. The residue of a message with its checksum appended (spec/40_division.md R93). -/

namespace Sys2Proof.Machine

/-- A remainder's own two bytes, most significant first, divide it to 0x0000. -/
theorem msgFold_ownBytes (r : Word) : msgFold r [r.extractLsb' 8 8, r.extractLsb' 0 8] = 0#16 := by
  have hlow : r.extractLsb' 0 8 = (r <<< 8).extractLsb' 8 8 := by
    refine BitVec.eq_of_getLsbD_eq fun i hi => ?_
    have hindex : 8 + i < 16 := by omega
    rw [BitVec.getLsbD_extractLsb', BitVec.getLsbD_extractLsb', BitVec.getLsbD_shiftLeft]
    simp [hi, hindex]
  have hout : (r <<< 8) <<< 8 = 0#16 := by
    rw [← BitVec.shiftLeft_add]
    exact BitVec.shiftLeft_eq_zero (Nat.le_refl 16)
  rw [msgFold_cons, byteUpdate_highByte, hlow, msgFold_cons, byteUpdate_highByte, hout, msgFold_nil]

/-- The raw CRC of FF FF: the residue of every message with its complemented remainder appended. -/
theorem rawCRC_ones : rawCRC [0xFF#8, 0xFF#8] = 0xA366#16 := by
  simp [rawCRC, initialRemainder, byteUpdate_eq, divStep, poly]

/-- A remainder's complement, most significant byte first, leaves what its two bytes of ones leave. -/
theorem msgFold_complementBytes (r : Word) :
    msgFold r [(complement r).extractLsb' 8 8, (complement r).extractLsb' 0 8] = 0xA366#16 := by
  have hbytes : [(complement r).extractLsb' 8 8, (complement r).extractLsb' 0 8] =
      List.zipWith (· ^^^ ·) [r.extractLsb' 8 8, r.extractLsb' 0 8] [0xFF#8, 0xFF#8] := by
    rw [complement, BitVec.extractLsb'_xor, BitVec.extractLsb'_xor]
    rfl
  calc msgFold r [(complement r).extractLsb' 8 8, (complement r).extractLsb' 0 8]
      = msgFold (r ^^^ initialRemainder)
          (List.zipWith (· ^^^ ·) [r.extractLsb' 8 8, r.extractLsb' 0 8] [0xFF#8, 0xFF#8]) := by
        rw [hbytes, initialRemainder, BitVec.xor_zero]
    _ = msgFold r [r.extractLsb' 8 8, r.extractLsb' 0 8] ^^^ rawCRC [0xFF#8, 0xFF#8] := msgFold_xor _ _ rfl
    _ = 0xA366#16 := by rw [msgFold_ownBytes, rawCRC_ones, BitVec.zero_xor]

theorem rawCRC_append_complementBytes (m : List Byte) :
    rawCRC (m ++ [(complement (rawCRC m)).extractLsb' 8 8, (complement (rawCRC m)).extractLsb' 0 8]) = 0xA366#16 := by
  rw [rawCRC_append, msgFold_complementBytes]

theorem rawCRC_sourceVector1_transmitted : rawCRC (sourceVector1 ++ [0xC5#8, 0x7A#8]) = 0x9AEE#16 := by
  rw [rawCRC_append, rawCRC_sourceVector1]
  simp [byteUpdate_eq, divStep, poly]

theorem rawCRC_sourceVector2_transmitted : rawCRC (sourceVector2 ++ [0xBB#8, 0x52#8]) = 0x774D#16 := by
  rw [rawCRC_append, rawCRC_sourceVector2]
  simp [byteUpdate_eq, divStep, poly]

theorem rawCRC_sourceVector3_transmitted : rawCRC (sourceVector3 ++ [0x11#8, 0x70#8]) = 0xBD42#16 := by
  rw [rawCRC_append, rawCRC_sourceVector3]
  simp [byteUpdate_eq, divStep, poly]

/-- Settles O25: the complemented remainder cancels all but its ones; transmitted low byte first, the empty message and V-SRC-1
leave different residues. -/
theorem appendedChecksumResidue : Obligations.AppendedChecksumResidue := by
  refine ⟨fun m => ⟨rawCRC_append_complementBytes m,
      crc16_eq_of_rawCRC_eq (rawCRC_append_complementBytes m) (by decide)⟩,
    rawCRC_ones, ?_, rawCRC_sourceVector1_transmitted, rawCRC_sourceVector2_transmitted, rawCRC_sourceVector3_transmitted⟩
  rintro ⟨c, hc⟩
  have hempty : 0xA366#16 = c := rawCRC_ones.symm.trans (hc [])
  have hvector : 0x9AEE#16 = c := by
    have hresidue := hc sourceVector1
    rw [rawCRC_sourceVector1] at hresidue
    exact rawCRC_sourceVector1_transmitted.symm.trans hresidue
  exact absurd (hempty.trans hvector.symm) (by decide)

end Sys2Proof.Machine
end

section
/-! SUPPORT. The byte in flight (spec/41_commands.md R102, R111): what repeated bit-division edges leave, and the state once
the byte is divided. -/

namespace Sys2Proof.Machine

section

variable (s : State)

theorem shiftByte_eq_shiftLeft_one (sh : Byte) : shiftByte sh = sh <<< 1 := by
  refine BitVec.eq_of_getLsbD_eq fun i hi => ?_
  rw [shiftByte_getLsbD _ hi, BitVec.getLsbD_shiftLeft]
  cases i <;> simp [hi]

/-! ### Repeated bit-division edges -/

/-- Bit-division edges write R, SH and CNT only (R111). -/
theorem iterate_divideEdge_frame (n : Nat) :
    divideEdge^[n] s =
      { s with r := (divideEdge^[n] s).r, sh := (divideEdge^[n] s).sh, cnt := (divideEdge^[n] s).cnt } := by
  induction n with
  | zero => rfl
  | succ n ih => rw [Function.iterate_succ_apply', ih]; rfl

theorem iterate_divideEdge_sh (n : Nat) : (divideEdge^[n] s).sh = s.sh <<< n := by
  induction n with
  | zero => simp
  | succ n ih =>
    rw [Function.iterate_succ_apply', divideEdge_sh, ih, shiftByte_eq_shiftLeft_one, BitVec.shiftLeft_add]

/-- The edge after `n` others divides bit 7 - n of the byte. -/
theorem iterate_divideEdge_succ_r {n : Nat} (hn : n < 8) :
    (divideEdge^[n + 1] s).r = divStep (divideEdge^[n] s).r (s.sh.getLsbD (7 - n)) := by
  have hbit : (divideEdge^[n] s).nextBit = s.sh.getLsbD (7 - n) := by
    rw [State.nextBit, iterate_divideEdge_sh, BitVec.getLsbD_shiftLeft]
    simp [Nat.le_of_lt_succ hn]
  rw [Function.iterate_succ_apply', divideEdge_r, hbit]

/-- Eight bit-division edges divide the whole byte, most significant bit first (R111). -/
theorem iterate_divideEdge_eight_r : (divideEdge^[8] s).r = byteUpdate s.r s.sh := by
  simp only [iterate_divideEdge_succ_r, Nat.reduceLT, Nat.reduceSub, Function.iterate_zero_apply, byteUpdate_eq]

/-- CNT counts the bit-division edges down to 0. -/
theorem iterate_divideEdge_cnt {n : Nat} (hn : n ≤ s.cnt.toNat) :
    (divideEdge^[n] s).cnt.toNat = s.cnt.toNat - n := by
  induction n with
  | zero => rfl
  | succ n ih =>
    have hcnt := ih (by omega)
    have hne : (divideEdge^[n] s).cnt ≠ 0#4 := by
      intro hzero
      rw [hzero] at hcnt
      simp at hcnt
      omega
    rw [Function.iterate_succ_apply', divideEdge_cnt, toNat_sub_one_of_ne_zero hne, hcnt]
    omega

/-- An accepted byte, divided (R112). -/
theorem iterate_divideEdge_loadByte (b : Byte) :
    divideEdge^[8] (loadByte b s) = { s with r := byteUpdate s.r b, sh := 0x00#8, cnt := 0#4 } := by
  have hr : (divideEdge^[8] (loadByte b s)).r = byteUpdate s.r b := iterate_divideEdge_eight_r _
  have hsh : (divideEdge^[8] (loadByte b s)).sh = 0x00#8 := by
    rw [iterate_divideEdge_sh]
    exact BitVec.shiftLeft_eq_zero (Nat.le_refl 8)
  have hcnt : (divideEdge^[8] (loadByte b s)).cnt = 0#4 :=
    BitVec.eq_of_toNat_eq (iterate_divideEdge_cnt _ (Nat.le_refl 8))
  rw [iterate_divideEdge_frame, hr, hsh, hcnt]
  rfl

/-- An edge without reset on a busy core is a bit-division edge (R111). -/
theorem edgeState_of_busy {p : PortSample} {s : State} (hrst : p.rst = false) (hcnt : s.cnt ≠ 0#4) :
    edgeState p s = divideEdge s := by
  simp [edgeState, hrst, (busy_eq_true_iff s).mpr hcnt]

/-- While a byte is being divided, every edge without reset is a bit-division edge, whatever the host presents. -/
theorem edgesState_of_length_le_cnt {s : State} {ps : List PortSample} (hps : noReset ps)
    (hlen : ps.length ≤ s.cnt.toNat) : edgesState ps s = divideEdge^[ps.length] s := by
  induction ps generalizing s with
  | nil => rfl
  | cons p ps ih =>
    obtain ⟨hrst, hrest⟩ := noReset_cons.mp hps
    rw [List.length_cons] at hlen
    have hne : s.cnt ≠ 0#4 := fun hzero => by simp [hzero] at hlen
    have hpred := toNat_sub_one_of_ne_zero hne
    rw [edgesState_cons, edgeState_of_busy hrst hne, ih hrest (by rw [divideEdge_cnt]; omega)]
    rfl

/-- The eight edges that follow an accepted byte divide it, whatever the host presents (R102, R111). -/
theorem edgesState_loadByte {ps : List PortSample} (hps : noReset ps) (hlen : ps.length = 8) (b : Byte) :
    edgesState ps (loadByte b s) = { s with r := byteUpdate s.r b, sh := 0x00#8, cnt := 0#4 } := by
  have hbusy : ps.length ≤ (loadByte b s).cnt.toNat := Nat.le_of_eq hlen
  rw [edgesState_of_length_le_cnt hps hbusy, hlen, iterate_divideEdge_loadByte]

/-- While fewer than eight edges have followed an accepted byte, the core is busy. -/
theorem edgesState_loadByte_busy (b : Byte) {ps : List PortSample} (hps : noReset ps)
    (hlen : ps.length < 8) : (edgesState ps (loadByte b s)).busy = true := by
  have hle : ps.length ≤ (loadByte b s).cnt.toNat := Nat.le_of_lt hlen
  have hcnt := iterate_divideEdge_cnt (loadByte b s) hle
  rw [edgesState_of_length_le_cnt hps hle, busy_eq_true_iff]
  intro hzero
  rw [hzero, loadByte_cnt] at hcnt
  simp at hcnt
  omega

/-! ### The state once the byte in flight is divided -/

/-- The state once the byte in flight, if there is one, is divided. -/
def State.drained : State := divideEdge^[s.cnt.toNat] s

theorem drained_of_cnt_eq_zero {s : State} (hcnt : s.cnt = 0#4) : s.drained = s := by
  rw [State.drained, hcnt]; rfl

/-- A bit-division edge is one of those the byte in flight still needs. -/
theorem drained_divideEdge {s : State} (hcnt : s.cnt ≠ 0#4) : (divideEdge s).drained = s.drained := by
  obtain ⟨n, hn⟩ := Nat.exists_eq_succ_of_ne_zero fun hzero => hcnt (BitVec.eq_of_toNat_eq hzero)
  rw [State.drained, State.drained, divideEdge_cnt, toNat_sub_one_of_ne_zero hcnt, hn]
  rfl

@[simp] theorem drained_active : s.drained.active = s.active := by
  rw [State.drained, iterate_divideEdge_frame]
@[simp] theorem drained_done : s.drained.done = s.done := by
  rw [State.drained, iterate_divideEdge_frame]
@[simp] theorem drained_err : s.drained.err = s.err := by
  rw [State.drained, iterate_divideEdge_frame]
@[simp] theorem drained_errCause : s.drained.errCause = s.errCause := by
  rw [State.drained, iterate_divideEdge_frame]
@[simp] theorem drained_result : s.drained.result = s.result := by
  rw [State.drained, iterate_divideEdge_frame]

end

end Sys2Proof.Machine
end

section
/-! SUPPORT. The command-level abstraction (spec/41_commands.md R112): the clock-edge machine, once the byte in flight is
divided, is AStep over the accepted commands. -/

namespace Sys2Proof.Machine

/-! ### AStep -/

@[simp] theorem aRun_nil (s : State) : aRun s [] = s := rfl

@[simp] theorem aRun_cons (s : State) (i : Instr) (cmds : List Instr) : aRun s (i :: cmds) = aRun (aStep s i) cmds := rfl

theorem aRun_append (s : State) (a b : List Instr) : aRun s (a ++ b) = aRun (aRun s a) b := List.foldl_append

theorem aStep_data_active (b : Byte) {s : State} (hactive : s.active = true) :
    aStep s (.data b) = { s with r := byteUpdate s.r b, sh := 0x00#8, cnt := 0#4 } := by
  simp [aStep, hactive]

/-- An accepted command, once its byte is divided, is AStep (R112). -/
theorem drained_execState {s : State} (hcnt : s.cnt = 0#4) (i : Instr) : (execState i s).drained = aStep s i := by
  rcases exec_cases (exec_eq_next i s) with
    ⟨d, rfl, ht⟩ | ⟨d, rfl, ht⟩ | ⟨b, rfl, hactive, ht⟩ | ⟨b, rfl, hactive, ht⟩ | ⟨d, rfl, hactive, ht⟩ |
      ⟨d, rfl, hactive, ht⟩ <;> rw [ht]
  · exact drained_of_cnt_eq_zero hcnt
  · exact drained_of_cnt_eq_zero hcnt
  · rw [aStep_data_active b hactive]; exact iterate_divideEdge_loadByte s b
  · simpa [aStep, hactive] using drained_of_cnt_eq_zero (s := protocolError causeDataIdle s) hcnt
  · simpa [aStep, hactive] using drained_of_cnt_eq_zero (s := publishResult s) hcnt
  · simpa [aStep, hactive] using drained_of_cnt_eq_zero (s := protocolError causeFinishIdle s) hcnt

/-- The simulation: over edges without reset, the drained state moves by AStep over the accepted commands (R112). -/
theorem drained_edgesState {ps : List PortSample} (hps : noReset ps) (s : State) :
    (edgesState ps s).drained = aRun s.drained (acceptedCommands ps s) := by
  induction ps generalizing s with
  | nil => rfl
  | cons p ps ih =>
    obtain ⟨hrst, hrest⟩ := noReset_cons.mp hps
    rw [edgesState_cons, ih hrest, acceptedCommands_cons, aRun_append]
    congr 1
    rcases edgeState_accepted_cases p s with
      ⟨hreset, -, -⟩ | ⟨-, hbusy, hacc, ht⟩ | ⟨-, -, hacc, ht⟩ | ⟨-, hidle, i, hacc, ht⟩
    · simp [hrst] at hreset
    · rw [ht, hacc, drained_divideEdge ((busy_eq_true_iff s).mp hbusy)]; rfl
    · rw [ht, hacc]; rfl
    · have hcnt := (busy_eq_false_iff s).mp hidle
      rw [ht, hacc, drained_execState hcnt, drained_of_cnt_eq_zero hcnt]; rfl

/-- Settles O45: the run's drained state is the AStep state. It is the state itself when CNT = 0, and draining writes R, SH and
CNT only. SH is overwritten by every byte, so its value before the run does not matter. -/
theorem commandLevelAbstraction : Obligations.CommandLevelAbstraction := by
  intro s ps hcnt _ hps
  have hsim := drained_edgesState hps s
  rw [drained_of_cnt_eq_zero hcnt] at hsim
  refine ⟨_, runPorts_eq ps s, fun hidle => ?_, ?_⟩
  · rw [← hsim, drained_of_cnt_eq_zero (s := edgesState ps s) hidle]
  · rw [← hsim, State.drained, iterate_divideEdge_frame]; rfl

end Sys2Proof.Machine
end

section
/-! SUPPORT. Frames at the level of commands (spec/41_commands.md R113, R114): what AStep leaves after a frame, whatever came
before it. -/

namespace Sys2Proof.Machine

section

variable (s : State)

@[simp] theorem aStep_nop (d : Byte) : aStep s (.nop d) = s := rfl

@[simp] theorem aStep_start (d : Byte) : aStep s (.start d) = startFrame s := rfl

theorem aStep_finish_active (d : Byte) {s : State} (hactive : s.active = true) :
    aStep s (.finish d) = publishResult s := by
  simp [aStep, hactive]

/-- A NOP between commands does not change what the commands do (R100). -/
theorem aRun_filter_nop (cmds : List Instr) : aRun s (cmds.filter fun i => i.op != 0b00#2) = aRun s cmds := by
  induction cmds generalizing s with
  | nil => rfl
  | cons i cmds ih =>
    cases i with
    | nop d => exact ih s
    | start d => exact ih _
    | data b => exact ih _
    | finish d => exact ih _

/-- DATA commands in an open frame fold their bytes into R, and leave the frame open and the error flags alone (R112). -/
theorem aRun_data {s : State} (hactive : s.active = true) (m : List Byte) :
    (aRun s (m.map .data)).r = msgFold s.r m ∧ (aRun s (m.map .data)).active = true ∧
      (aRun s (m.map .data)).err = s.err ∧ (aRun s (m.map .data)).errCause = s.errCause := by
  induction m generalizing s with
  | nil => exact ⟨rfl, hactive, rfl, rfl⟩
  | cons b m ih =>
    rw [List.map_cons, aRun_cons, aStep_data_active b hactive]
    exact ih hactive

/-- What a finished frame of the message `m` shows: its checksum, DONE and no error (R113). -/
structure State.Published (s : State) (m : List Byte) : Prop where
  result : s.result = crc16 m
  done : s.done = true
  active : s.active = false
  err : s.err = false
  errCause : s.errCause = 0b00#2

/-- A frame publishes its message's checksum, from every state. -/
theorem aRun_frame {m : List Byte} {cmds : List Instr} (hframe : isFrame m cmds) : (aRun s cmds).Published m := by
  obtain ⟨a, b, hcmds⟩ := hframe
  obtain ⟨hr, hactive, herr, hcause⟩ := aRun_data (startFrame_active s) m
  rw [← aRun_filter_nop, hcmds, aRun_append, aRun_cons s, aStep_start, aRun_cons, aRun_nil, aStep_finish_active b hactive]
  exact
    { result := by rw [publishResult_result, hr]; rfl
      done := rfl
      active := rfl
      err := herr
      errCause := hcause }

/-- A run without reset whose accepted commands end in a frame publishes that frame's checksum, whatever was accepted before
it and whatever byte was in flight. -/
theorem published_edgesState {ps : List PortSample} {s : State} {before frame : List Instr} {m : List Byte}
    (hps : noReset ps) (hcmds : acceptedCommands ps s = before ++ frame) (hframe : isFrame m frame) :
    (edgesState ps s).Published m := by
  have hpub : (edgesState ps s).drained.Published m := by
    rw [drained_edgesState hps, hcmds, aRun_append]
    exact aRun_frame _ hframe
  exact
    { result := (drained_result _).symm.trans hpub.result
      done := (drained_done _).symm.trans hpub.done
      active := (drained_active _).symm.trans hpub.active
      err := (drained_err _).symm.trans hpub.err
      errCause := (drained_errCause _).symm.trans hpub.errCause }

theorem edgeState_of_rst {p : PortSample} (hrst : p.rst = true) : edgeState p s = State.reset.withInputs s.inputs := by
  simp [edgeState, hrst, resetEdge]

end

/-- AStep opens a frame on START only. -/
theorem aRun_active_of_no_start {s : State} {cmds : List Instr} (hidle : s.active = false)
    (hcmds : ∀ i ∈ cmds, i.op ≠ 0b01#2) : (aRun s cmds).active = false := by
  induction cmds generalizing s with
  | nil => exact hidle
  | cons i cmds ih =>
    obtain ⟨hi, hrest⟩ := List.forall_mem_cons.mp hcmds
    refine ih ?_ hrest
    cases i with
    | nop d => exact hidle
    | start d => exact absurd rfl hi
    | data b => simp [aStep, hidle]
    | finish d => simp [aStep, hidle]

/-- Settles O46: the accepted commands are a frame with nothing before it. -/
theorem frameResultIsTheChecksum : Obligations.FrameResultIsTheChecksum := by
  intro s ps m hps hframe
  have hpub := published_edgesState hps (List.nil_append _).symm hframe
  exact ⟨_, runPorts_eq ps s, hpub.result, hpub.done, hpub.active, hpub.err, hpub.errCause⟩

/-- Settles O47: START clears R, so the last frame alone decides; a reset edge leaves the reset state of any run. -/
theorem restartForgetsTheOpenFrame : Obligations.RestartForgetsTheOpenFrame := by
  refine ⟨fun s ps before frame m hps hcmds hframe => ?_, fun s ps qs p m hrst hqs hframe => ?_,
    fun s t ps p hrst hrun => ?_⟩
  · have hpub := published_edgesState hps hcmds hframe
    exact ⟨_, runPorts_eq ps s, hpub.result, hpub.done, hpub.active, hpub.err⟩
  · have hpub := published_edgesState hqs (List.nil_append _).symm hframe
    refine ⟨_, runPorts_eq _ s, ?_⟩
    rw [edgesState_append, edgesState_cons, edgeState_of_rst _ hrst, edgesState_withInputs]
    exact ⟨hpub.result, hpub.done, hpub.active, hpub.err⟩
  · rw [runPorts_eq, edgesState_append, edgesState_cons, edgesState_nil, edgeState_of_rst _ hrst] at hrun
    cases hrun
    rfl

end Sys2Proof.Machine
end

section
/-! SUPPORT. Noninterference of the control state (spec/41_commands.md R110, spec/10_state.md R37): CNT and the flags move by
`rst`, `cmd_valid` and `cmd_op` alone. -/

namespace Sys2Proof.Machine

/-- The ports of R33 without the data bits. -/
def PortSample.control (p : PortSample) : Bool × Bool × BitVec 2 := (p.rst, p.valid, p.op)

theorem control_ports_eq_iff {p q : PortSample} :
    p.control = q.control ↔ p.rst = q.rst ∧ p.valid = q.valid ∧ p.op = q.op := by
  simp [PortSample.control]

/-- The state with its data erased: CNT and the flags stay. -/
def State.control (s : State) : State := { s with r := 0x0000#16, sh := 0x00#8, result := 0x0000#16, inputs := [] }

@[simp] theorem control_cnt (s : State) : s.control.cnt = s.cnt := rfl
@[simp] theorem control_busy (s : State) : s.control.busy = s.busy := rfl
@[simp] theorem control_statusWord (s : State) : s.control.statusWord = s.statusWord := rfl

theorem control_eq_iff {s u : State} :
    s.control = u.control ↔
      s.cnt = u.cnt ∧ s.active = u.active ∧ s.done = u.done ∧ s.err = u.err ∧ s.errCause = u.errCause := by
  simp [State.control]

@[simp] theorem opField_joinFields (op : BitVec 2) (d : Byte) : opField (joinFields op d) = op :=
  (Laws.EncodedFields.fields_of_join op d).1

@[simp] theorem dataField_joinFields (op : BitVec 2) (d : Byte) : dataField (joinFields op d) = d :=
  (Laws.EncodedFields.fields_of_join op d).2

@[simp] theorem opField_word (p : PortSample) : opField p.word = p.op := opField_joinFields _ _

@[simp] theorem dataField_word (p : PortSample) : dataField p.word = p.data := dataField_joinFields _ _

/-- The command with its data field CW[7:0] set to zero. -/
def eraseField : Instr → Instr
  | .nop _ => .nop 0x00#8
  | .start _ => .start 0x00#8
  | .data _ => .data 0x00#8
  | .finish _ => .finish 0x00#8

/-- Without its data field a command is its operation code. -/
theorem eraseField_eq_of_op_eq {i j : Instr} (hop : i.op = j.op) : eraseField i = eraseField j := by
  have hkept (k : Instr) : (eraseField k).op = k.op := by cases k <;> rfl
  have herased (k : Instr) : (eraseField k).field = 0x00#8 := by cases k <;> rfl
  exact Instr.ext_fields (by rw [hkept, hkept, hop]) (by rw [herased, herased])

/-- A command's effect on the control state reads neither its data field nor the state's data. -/
theorem execState_control (i : Instr) (s : State) :
    (execState (eraseField i) s.control).control = (execState i s).control := by
  have hactive : s.control.active = s.active := rfl
  cases i with
  | nop d => rfl
  | start d => rfl
  | data b => cases hs : s.active <;> simp only [eraseField, execState, hactive, hs] <;> rfl
  | finish d => cases hs : s.active <;> simp only [eraseField, execState, hactive, hs] <;> rfl

theorem divideEdge_control (s : State) : (divideEdge s.control).control = (divideEdge s).control := rfl

section

variable {p q : PortSample} {s u : State} (hports : p.control = q.control) (hstate : s.control = u.control)

include hports hstate

/-- An edge's effect on the control state reads no data. -/
theorem edgeState_control : (edgeState p s).control = (edgeState q u).control := by
  obtain ⟨hrst, hvalid, hop⟩ := control_ports_eq_iff.mp hports
  have hbusy : s.busy = u.busy := by rw [← control_busy s, hstate, control_busy]
  have hdivide : (divideEdge s).control = (divideEdge u).control := by
    rw [← divideEdge_control, hstate, divideEdge_control]
  have herase : eraseField (decodeWord p.word) = eraseField (decodeWord q.word) :=
    eraseField_eq_of_op_eq (by simp [hop])
  have hexec : (execState (decodeWord p.word) s).control = (execState (decodeWord q.word) u).control := by
    rw [← execState_control, herase, hstate, execState_control]
  simp only [edgeState, hrst, hbusy, hvalid]
  split
  · rfl
  · split
    · exact hdivide
    · split
      · exact hexec
      · exact hstate

/-- Which operation an edge accepts, and whether it accepts one, reads no data. -/
theorem acceptedCommand_op_eq :
    (acceptedCommand p s).toList.map Instr.op = (acceptedCommand q u).toList.map Instr.op := by
  obtain ⟨hrst, hvalid, hop⟩ := control_ports_eq_iff.mp hports
  have hbusy : s.busy = u.busy := by rw [← control_busy s, hstate, control_busy]
  have haccepts : accepts p s = accepts q u := by simp only [accepts, readyAt, hrst, hvalid, hbusy]
  unfold acceptedCommand
  rw [haccepts]
  cases accepts q u <;> simp [hop]

end

/-- Two runs whose hosts differ in data alone accept the same operations and keep the same control state. -/
theorem control_run {ps qs : List PortSample} {s u : State}
    (hports : ps.map PortSample.control = qs.map PortSample.control) (hstate : s.control = u.control) :
    (acceptedCommands ps s).map Instr.op = (acceptedCommands qs u).map Instr.op ∧
      (edgesState ps s).control = (edgesState qs u).control := by
  induction ps generalizing qs s u with
  | nil =>
    obtain rfl : qs = [] := List.map_eq_nil_iff.mp hports.symm
    exact ⟨rfl, hstate⟩
  | cons p ps ih =>
    cases qs with
    | nil => cases hports
    | cons q qs =>
      obtain ⟨hfirst, hrest⟩ := List.cons.inj hports
      obtain ⟨hops, hend⟩ := ih hrest (edgeState_control hfirst hstate)
      refine ⟨?_, hend⟩
      rw [acceptedCommands_cons, acceptedCommands_cons, List.map_append, List.map_append,
        acceptedCommand_op_eq hfirst hstate, hops]

/-- Settles O53: CNT and the status word are read off the control state. -/
theorem timingAndFlagsDoNotDependOnData : Obligations.TimingAndFlagsDoNotDependOnData := by
  intro s u ps qs hports hcnt hactive hdone herr hcause
  obtain ⟨hops, hend⟩ := control_run hports (control_eq_iff.mpr ⟨hcnt, hactive, hdone, herr, hcause⟩)
  refine ⟨hops, _, _, runPorts_eq ps s, runPorts_eq qs u, ?_, ?_⟩
  · rw [withInputs_cnt, ← control_cnt, hend]; rfl
  · rw [withInputs_statusWord, ← control_statusWord, hend]; rfl

end Sys2Proof.Machine
end

section
/-! SUPPORT. The clock-edge rule and the four commands (spec/41_commands.md R99 to R105, R110, R111). -/

namespace Sys2Proof.Machine

/-- The decoder on the command word of the ports reads the two ports apart (R99). -/
theorem decodeWord_word (p : PortSample) :
    decodeWord p.word =
      if p.op = 0b00#2 then .nop p.data else if p.op = 0b01#2 then .start p.data
      else if p.op = 0b10#2 then .data p.data else .finish p.data := by
  rw [decodeWord, opField_word, dataField_word]

/-- A command is accepted exactly when R99's condition holds. -/
theorem acceptedCommand_ne_none_iff {p : PortSample} {s : State} :
    acceptedCommand p s ≠ none ↔ p.rst = false ∧ s.cnt = 0#4 ∧ p.valid = true := by
  simp [Option.ne_none_iff_exists', acceptedCommand_eq_some_iff, busy_eq_false_iff]

/-- Nothing is accepted while a byte is being divided (R111). -/
theorem acceptedCommand_of_busy (p : PortSample) {s : State} (hcnt : s.cnt ≠ 0#4) : acceptedCommand p s = none := by
  by_contra hacc
  exact hcnt (acceptedCommand_ne_none_iff.mp hacc).2.1

/-- An edge that accepts a command runs it. -/
theorem edgeState_of_accepted {p : PortSample} {s : State} {i : Instr} (hacc : acceptedCommand p s = some i) :
    edgeState p s = execState i s := by
  obtain ⟨hrst, hidle, hvalid, rfl⟩ := acceptedCommand_eq_some_iff.mp hacc
  simp [edgeState, hrst, hidle, hvalid]

/-- One step under a host whose next port values are `p`. -/
theorem step_withInputs_cons (s : State) (p : PortSample) (ps : List PortSample) :
    step (s.withInputs (p :: ps)) = .next ((edgeState p s).withInputs ps) := by
  rw [step_eq_next]; simp [edgeState_withInputs]

/-- Settles O3, branch by branch of the edge rule, and op by op where a command is accepted. -/
theorem clockEdgeRule : Obligations.ClockEdgeRule := by
  intro s
  rw [step_eq_next]
  congr 1
  rcases edgeState_cases s.port s.popInput with
    ⟨hrst, ht⟩ | ⟨hrst, hbusy, ht⟩ | ⟨hrst, hidle, hvalid, ht⟩ | ⟨hrst, hidle, hvalid, ht⟩ <;> rw [ht]
  · rw [if_pos hrst]; rfl
  · have hcnt : s.cnt ≠ 0#4 := (busy_eq_true_iff _).mp hbusy
    rw [if_neg (Bool.eq_false_iff.mp hrst), if_pos hcnt]; rfl
  · have hcnt : s.cnt = 0#4 := (busy_eq_false_iff _).mp hidle
    rw [if_neg (Bool.eq_false_iff.mp hrst), if_neg (not_not.mpr hcnt), if_pos hvalid, decodeWord_word]
    simp only [apply_ite (execState · s.popInput)]
    rfl
  · have hcnt : s.cnt = 0#4 := (busy_eq_false_iff _).mp hidle
    rw [if_neg (Bool.eq_false_iff.mp hrst), if_neg (not_not.mpr hcnt), if_neg (Bool.eq_false_iff.mp hvalid)]; rfl

/-- Settles O2: R99's condition decides whether the edge runs a command, and the decoder reads the two ports apart. -/
theorem stepRunsTheDecodedCommand : Obligations.StepRunsTheDecodedCommand := by
  intro s
  rw [step_eq_next]
  refine ⟨acceptedCommand_ne_none_iff, fun i hacc => ⟨?_, ?_⟩, fun hnone => ?_⟩
  · exact (acceptedCommand_eq_some_iff.mp hacc).2.2.2
  · rw [edgeState_of_accepted (s := s.popInput) hacc, exec_eq_next]; rfl
  · congr 1
    rcases edgeState_accepted_cases s.port s.popInput with
      ⟨hrst, -, ht⟩ | ⟨hrst, hbusy, -, ht⟩ | ⟨hrst, hidle, -, ht⟩ | ⟨-, -, i, hacc, -⟩
    · rw [ht, if_pos hrst]
    · rw [popInput_busy] at hbusy
      simp [ht, hrst, hbusy]
    · rw [popInput_busy] at hidle
      simp [ht, hrst, hidle]
    · rw [acceptedCommand_popInput, hnone] at hacc; cases hacc

/-- Settles O26: the accepting edge of a NOP only moves the host on, and AStep on a NOP is the identity. -/
theorem nopChangesNothing : Obligations.NopChangesNothing := by
  refine ⟨exec_nop, by decide, fun s p ps hrst hcnt hvalid hop => ?_, fun s d a b => ?_⟩
  · have hnop : decodeWord p.word = .nop p.data := by rw [decodeWord_word, if_pos hop]
    have hacc : acceptedCommand p s = some (.nop p.data) :=
      acceptedCommand_eq_some_iff.mpr ⟨hrst, (busy_eq_false_iff s).mpr hcnt, hvalid, hnop.symm⟩
    rw [step_withInputs_cons, edgeState_of_accepted hacc]
    exact ⟨hacc, rfl⟩
  · rw [aRun_append, aRun_append, aRun_cons, aStep_nop]

/-- Settles O27: the meaning of START is its frame update in every state, and a busy core accepts nothing. -/
theorem startOpensAFrame : Obligations.StartOpensAFrame :=
  ⟨exec_start, by decide, fun _ p hcnt => acceptedCommand_of_busy p hcnt,
    fun d s _ _ _ hresult => ⟨_, exec_start d s, rfl, rfl, rfl, hresult⟩⟩

/-- The word of DATA is 0x200 OR its byte (R102). -/
theorem encode_data_eq_or (b : Byte) : encode (.data b) = 0x200#10 ||| b.setWidth 10 := by
  have hword := encode_data_ofNat (n := b.toNat) (by omega)
  rwa [BitVec.ofNat_toNat, BitVec.ofNat_toNat, BitVec.setWidth_eq] at hword

/-- Settles O28: CNT counts the eight edges, and they divide the byte. -/
theorem dataWhileActiveSuppliesAByte : Obligations.DataWhileActiveSuppliesAByte := by
  refine ⟨fun b s hactive => exec_data_active b hactive, encode_data_eq_or, fun b s t ps hactive hexec hps => ?_,
    by decide, by decide, by decide⟩
  rw [exec_data_active b hactive] at hexec
  cases hexec
  refine ⟨fun hlen => ⟨_, runPorts_eq ps _, edgesState_loadByte_busy s b hps hlen⟩, fun hlen => ?_⟩
  rw [runPorts_eq, edgesState_loadByte s hps hlen]
  rfl

/-- Settles O29: START overwrites the flags the error wrote, and without START no frame opens after a reset. -/
theorem dataWhileIdleIsAnError : Obligations.DataWhileIdleIsAnError := by
  refine ⟨fun b s hidle => exec_data_idle b hidle, fun b s t hidle hcnt hexec p => ?_, fun b d s t hidle hexec => ?_,
    fun ps b hps hcmds => ?_, ⟨_, rfl, rfl, rfl, rfl, rfl⟩⟩
  · rw [exec_data_idle b hidle] at hexec
    cases hexec
    simp [readyAt, busy_eq_false_iff, hcnt]
  · rw [exec_data_idle b hidle] at hexec
    cases hexec
    rfl
  · have hidle : (edgesState ps State.reset).active = false := by
      rw [← drained_active, drained_edgesState hps]
      exact aRun_active_of_no_start rfl hcmds
    exact ⟨_, runPorts_eq ps _, hidle, exec_data_idle b hidle⟩

/-- Settles O30: FINISH publishes Final(R), which is 0xFFFF for the remainder START leaves; an open frame has ERR = 0 by the
invariants. -/
theorem finishWhileActivePublishes : Obligations.FinishWhileActivePublishes := by
  refine ⟨fun d s hactive => exec_finish_active d hactive, by decide, fun d e s t hexec => ?_,
    fun _ p hcnt => acceptedCommand_of_busy p hcnt, fun s hinv hactive => (hinv.active_clean hactive).2,
    fun d s hactive hr => ?_⟩
  · cases hexec
    exact ⟨_, exec_finish_active e (startFrame_active s), (by decide : finalWord initialRemainder = 0xFFFF#16)⟩
  · refine ⟨_, exec_finish_active d hactive, ?_, rfl, rfl⟩
    rw [publishResult_result, hr]; decide

/-- Settles O31: the first FINISH closes the frame, so the second meets an idle core and writes the error flags only. -/
theorem finishWhileIdleIsAnError : Obligations.FinishWhileIdleIsAnError := by
  refine ⟨fun d s hidle => exec_finish_idle d hidle, fun d e s t u hactive hfirst hsecond => ?_,
    ⟨_, rfl, rfl, rfl⟩, fun d s hidle hdone hresult herr => ⟨_, exec_finish_idle d hidle, hdone, hresult, rfl, ?_⟩⟩
  · rw [exec_finish_active d hactive] at hfirst
    cases hfirst
    rw [exec_finish_idle e (publishResult_active s)] at hsecond
    cases hsecond
    exact ⟨rfl, rfl, rfl⟩
  · simp [herr, causeFinishIdle]

/-- Settles O44: the eight edges that follow the accepting edge are bit-division edges. -/
theorem bitDivisionEdges : Obligations.BitDivisionEdges := by
  refine ⟨fun s p ps hrst hcnt => ⟨?_, acceptedCommand_of_busy p hcnt, ?_⟩, fun s p ps hactive hacc hps hlen => ?_⟩
  · simp [readyAt, (busy_eq_true_iff s).mpr hcnt]
  · rw [step_withInputs_cons, edgeState_of_busy hrst hcnt]; rfl
  · have hload : edgeState p s = loadByte p.data s := by
      rw [edgeState_of_accepted hacc, execState, if_pos hactive]
    rw [runPorts_eq, edgesState_cons, hload, edgesState_loadByte s hps hlen]
    rfl

theorem readyAt_idle (s : State) : readyAt .idle s = !s.busy := Bool.and_true _

@[simp] theorem startFrame_busy (s : State) : (startFrame s).busy = s.busy := rfl
@[simp] theorem loadByte_busy (b : Byte) (s : State) : (loadByte b s).busy = true := rfl
@[simp] theorem publishResult_busy (s : State) : (publishResult s).busy = s.busy := rfl
@[simp] theorem protocolError_busy (c : BitVec 2) (s : State) : (protocolError c s).busy = s.busy := rfl

/-- Settles O43: each command's own row; in an open frame the invariants give DONE = 0 and ERR = 0, and the eight further edges
of DATA leave the flags. -/
theorem outputsAfterEachCommand : Obligations.OutputsAfterEachCommand := by
  intro i s t hinv hcnt hexec
  have hready : s.busy = false := (busy_eq_false_iff s).mpr hcnt
  have hclean (hactive : s.active = true) : s.done = false ∧ s.err = false ∧ s.errCause = 0b00#2 := by
    obtain ⟨hdone, herr⟩ := hinv.active_clean hactive
    exact ⟨hdone, herr, hinv.err_cause.mp herr⟩
  rcases exec_cases hexec with
    ⟨d, rfl, rfl⟩ | ⟨d, rfl, rfl⟩ | ⟨b, rfl, hactive, rfl⟩ | ⟨b, rfl, hidle, rfl⟩ | ⟨d, rfl, hactive, rfl⟩ |
      ⟨d, rfl, hidle, rfl⟩
  · simp [Instr.op, readyAt_idle, State.flagPorts, hready]
  · simp [Instr.op, readyAt_idle, State.flagPorts, State.resWord, hready, causeNone]
  · obtain ⟨hdone, herr, hcause⟩ := hclean hactive
    have hedges (ps : List PortSample) (hps : noReset ps) (hlen : ps.length = 8) :
        ∃ u, runPorts ps (loadByte b s) = .next u ∧ readyAt .idle u = true ∧ u.flagPorts = (false, true, false, false) ∧
          u.errCause = 0b00#2 ∧ u.resWord = s.resWord := by
      refine ⟨_, runPorts_eq ps _, ?_⟩
      rw [edgesState_loadByte s hps hlen]
      simp [readyAt_idle, State.flagPorts, State.busy, State.resWord, hactive, hdone, herr, hcause]
    refine ⟨nofun, nofun, fun _ _ => ⟨rfl, ?_, hcause, rfl, hedges⟩, ?_, nofun, nofun⟩
    · simp [State.flagPorts, hactive, hdone, herr]
    · simp [hactive]
  · simp [Instr.op, readyAt_idle, State.flagPorts, State.resWord, hready, hidle, causeDataIdle]
  · obtain ⟨-, herr, hcause⟩ := hclean hactive
    simp [Instr.op, readyAt_idle, State.flagPorts, State.resWord, hready, hactive, herr, hcause]
  · simp [Instr.op, readyAt_idle, State.flagPorts, State.resWord, hready, hidle, causeFinishIdle]

end Sys2Proof.Machine
end

section
/-! SUPPORT. Protocol errors (spec/60_exceptions.md R122, R123, R126, R128): what a command does to ERR and ERR_CAUSE, said once,
and how long an error stays. -/

namespace Sys2Proof.Machine

section

variable {s t : State} {i : Instr}

/-- A first protocol error records its cause (R122). -/
theorem protocolError_of_err_eq_false (c : BitVec 2) (herr : s.err = false) :
    protocolError c s = { s with err := true, errCause := c } := by
  simp [protocolError, State.errorFlags, herr]

/-- A further protocol error changes nothing (R122). -/
theorem protocolError_of_err_eq_true (c : BitVec 2) (herr : s.err = true) : protocolError c s = s := by
  refine State.ext_fields rfl rfl rfl rfl rfl ?_ ?_ rfl rfl <;> simp [herr]

/-- Acceptance reads no error flag (R122). -/
@[simp] theorem acceptedCommand_protocolError (c : BitVec 2) (p : PortSample) (s : State) :
    acceptedCommand p (protocolError c s) = acceptedCommand p s := rfl

/-- In IDLE the command `i` is the protocol error with cause `c` (R123). -/
def RaisesWhenIdle (i : Instr) (c : BitVec 2) : Prop :=
  (∃ b, i = .data b) ∧ c = 0b01#2 ∨ (∃ d, i = .finish d) ∧ c = 0b10#2

/-- A raised cause is neither "no error" nor the reserved value (R123). -/
theorem RaisesWhenIdle.cause_legal {c : BitVec 2} (h : RaisesWhenIdle i c) : c ≠ 0b00#2 ∧ c ≠ 0b11#2 := by
  rcases h with ⟨-, rfl⟩ | ⟨-, rfl⟩ <;> decide

/-- NOP and START raise nothing (R123). -/
theorem RaisesWhenIdle.op_ne {c : BitVec 2} (h : RaisesWhenIdle i c) : i.op ≠ 0b00#2 ∧ i.op ≠ 0b01#2 := by
  rcases h with ⟨⟨b, rfl⟩, -⟩ | ⟨⟨d, rfl⟩, -⟩ <;> simp [Instr.op]

/-- Everything a command can do to ERR and ERR_CAUSE (R101, R123): leave them, clear them by START, or be a protocol error in
IDLE. -/
theorem exec_error_cases (hexec : exec i s = .next t) :
    (t.err = s.err ∧ t.errCause = s.errCause) ∨
    (i.op = 0b01#2 ∧ t.err = false ∧ t.errCause = 0b00#2) ∨
    (s.active = false ∧ ∃ c, RaisesWhenIdle i c ∧ t = protocolError c s) := by
  rcases exec_cases hexec with
    ⟨d, rfl, rfl⟩ | ⟨d, rfl, rfl⟩ | ⟨b, rfl, -, rfl⟩ | ⟨b, rfl, hidle, rfl⟩ | ⟨d, rfl, -, rfl⟩ | ⟨d, rfl, hidle, rfl⟩
  · exact .inl ⟨rfl, rfl⟩
  · exact .inr (.inl ⟨rfl, rfl, rfl⟩)
  · exact .inl ⟨rfl, rfl⟩
  · exact .inr (.inr ⟨hidle, _, .inl ⟨⟨b, rfl⟩, rfl⟩, rfl⟩)
  · exact .inl ⟨rfl, rfl⟩
  · exact .inr (.inr ⟨hidle, _, .inr ⟨⟨d, rfl⟩, rfl⟩, rfl⟩)

/-- ERR rises only by a command that is a protocol error in IDLE, which then records its own cause (R123). -/
theorem exec_raises_error (hexec : exec i s = .next t) (hclear : s.err = false) (hraised : t.err = true) :
    s.active = false ∧ RaisesWhenIdle i t.errCause := by
  rcases exec_error_cases hexec with ⟨hkept, -⟩ | ⟨-, hnone, -⟩ | ⟨hidle, c, hraises, rfl⟩
  · simp [hkept, hclear] at hraised
  · simp [hnone] at hraised
  · rw [protocolError_of_err_eq_false c hclear]
    exact ⟨hidle, hraises⟩

/-- Once an error is recorded, a command clears it, and then it is START, or leaves it and its first cause (R128). -/
theorem exec_error_of_err (hexec : exec i s = .next t) (herr : s.err = true) :
    (i.op = 0b01#2 ∧ t.err = false) ∨ (t.err = true ∧ t.errCause = s.errCause) := by
  rcases exec_error_cases hexec with ⟨hkept, hcause⟩ | ⟨hstart, hclear, -⟩ | ⟨-, c, -, rfl⟩
  · exact .inr ⟨hkept.trans herr, hcause⟩
  · exact .inl ⟨hstart, hclear⟩
  · rw [protocolError_of_err_eq_true c herr]
    exact .inr ⟨herr, rfl⟩

/-- A protocol error leaves a value out of ERR_CAUSE when neither its own cause nor the recorded one has it. -/
theorem protocolError_errCause_ne {c x : BitVec 2} (hcause : c ≠ x) (hheld : s.err = true → s.errCause ≠ x) :
    (protocolError c s).errCause ≠ x := by
  rw [protocolError_errCause]
  split
  · exact hheld ‹_›
  · exact hcause

/-- No command produces the reserved cause 11 (R123). -/
theorem exec_keeps_cause_legal (hexec : exec i s = .next t) (hlegal : s.errCause ≠ 0b11#2) : t.errCause ≠ 0b11#2 := by
  rcases exec_error_cases hexec with ⟨-, hcause⟩ | ⟨-, -, hcause⟩ | ⟨-, c, hraises, rfl⟩
  · rwa [hcause]
  · rw [hcause]; decide
  · exact protocolError_errCause_ne hraises.cause_legal.2 fun _ => hlegal

/-- Every command keeps ERR = 0 equivalent to ERR_CAUSE = 00. -/
theorem exec_keeps_err_iff_cause (hexec : exec i s = .next t) (hiff : s.err = false ↔ s.errCause = 0b00#2) :
    t.err = false ↔ t.errCause = 0b00#2 := by
  rcases exec_error_cases hexec with ⟨hkept, hcause⟩ | ⟨-, hnone, hcause⟩ | ⟨-, c, hraises, rfl⟩
  · rwa [hkept, hcause]
  · simp [hnone, hcause]
  · have hheld : s.err = true → s.errCause ≠ 0b00#2 := fun herr hnone => by simp [hiff.mpr hnone] at herr
    exact iff_of_false (by simp) (protocolError_errCause_ne hraises.cause_legal.1 hheld)

/-- An edge without reset that accepts no START keeps a recorded error and its cause. -/
theorem edgeState_keeps_error {p : PortSample} (herr : s.err = true) (hrst : p.rst = false)
    (hcmd : ∀ i ∈ acceptedCommand p s, i.op ≠ 0b01#2) :
    (edgeState p s).err = true ∧ (edgeState p s).errCause = s.errCause := by
  rcases edgeState_accepted_cases p s with
    ⟨hreset, -, -⟩ | ⟨-, -, -, ht⟩ | ⟨-, -, -, ht⟩ | ⟨-, -, i, hacc, ht⟩
  · rw [hrst] at hreset; cases hreset
  · rw [ht]; exact ⟨herr, rfl⟩
  · rw [ht]; exact ⟨herr, rfl⟩
  · rw [ht]
    exact (exec_error_of_err (exec_eq_next i s) herr).resolve_left fun hstart => hcmd i hacc hstart.1

/-- A run without reset that accepts no START keeps a recorded error and its cause (R128). -/
theorem edgesState_keeps_error {ps : List PortSample} (herr : s.err = true) (hps : noReset ps)
    (hcmds : ∀ i ∈ acceptedCommands ps s, i.op ≠ 0b01#2) :
    (edgesState ps s).err = true ∧ (edgesState ps s).errCause = s.errCause := by
  induction ps generalizing s with
  | nil => exact ⟨herr, rfl⟩
  | cons p ps ih =>
    obtain ⟨hrst, hrest⟩ := noReset_cons.mp hps
    rw [acceptedCommands_cons, List.forall_mem_append] at hcmds
    obtain ⟨hfirst, hlater⟩ := hcmds
    obtain ⟨hkept, hcause⟩ := edgeState_keeps_error herr hrst fun i hi => hfirst i (Option.mem_toList.mpr hi)
    rw [← hcause]
    exact ih hkept hrest hlater

end

/-- Nothing is accepted at a reset edge (R99, R126). -/
theorem acceptedCommand_of_rst {p : PortSample} (s : State) (hrst : p.rst = true) : acceptedCommand p s = none := by
  simp [acceptedCommand, accepts, readyAt, hrst]

/-- Settles O36: ERR decides what the flags become, and no other element, acceptance included, reads or shows the error. -/
theorem protocolErrorHasNoOtherEffect : Obligations.ProtocolErrorHasNoOtherEffect := by
  refine ⟨fun c s => protocolError_of_err_eq_false c, fun c s => protocolError_of_err_eq_true c,
    fun c s p => acceptedCommand_protocolError c p s, fun b s hidle => ⟨exec_data_idle b hidle, exec_finish_idle b hidle⟩,
    fun c d s t hexec => ?_, fun c s => ⟨rfl, rfl⟩⟩
  cases hexec
  exact ⟨rfl, rfl⟩

/-- Settles O35: in IDLE the two meanings are protocol errors; each other clause reads off what a command can do to the flags. -/
theorem errorCauses : Obligations.ErrorCauses := by
  refine ⟨fun i s t => exec_raises_error, fun b s hidle hclear => ⟨?_, ?_⟩, fun i s t hexec hquiet hraised => ?_,
    fun i s t => exec_keeps_cause_legal, fun i s t => exec_keeps_err_iff_cause⟩
  · exact ⟨_, exec_data_idle b hidle, rfl, by simp [hclear, causeDataIdle]⟩
  · exact ⟨_, exec_finish_idle b hidle, rfl, by simp [hclear, causeFinishIdle]⟩
  · by_contra hclear
    obtain ⟨hidle, hraises⟩ := exec_raises_error hexec (Bool.eq_false_iff.mpr hclear) hraised
    simp [hraises.op_ne, hidle] at hquiet

/-- Settles O37, by induction on the edges: a bit-division writes no error flag, and of the commands START alone clears one. -/
theorem onlyStartOrResetClearsAnError : Obligations.OnlyStartOrResetClearsAnError := by
  refine ⟨fun ps s herr hps hcmds => ⟨_, runPorts_eq ps s, edgesState_keeps_error herr hps hcmds⟩,
    fun d s => ⟨_, exec_start d s, rfl, rfl⟩, fun s p ps hrst => ⟨_, step_withInputs_cons s p ps, ?_⟩⟩
  rw [edgeState_of_rst s hrst]
  exact ⟨rfl, rfl⟩

/-- Settles O5: the branches of the edge rule in their order, each with what it reads; and a command that leaves ERR at 1 is no
START, so it keeps the first cause. -/
theorem priorityAtOneEdge : Obligations.PriorityAtOneEdge := by
  refine ⟨fun s u p q ps hp hq => ⟨?_, ?_⟩, fun s p q ps hcnt hp hq => ⟨?_, acceptedCommand_of_busy p hcnt, ?_, ?_⟩,
    fun s p ps hcnt hrst hvalid => ?_, fun i s t hexec herr hkept => ?_⟩
  · exact acceptedCommand_of_rst s hp
  · rw [step_withInputs_cons, step_withInputs_cons, edgeState_of_rst s hp, edgeState_of_rst u hq]; rfl
  · simp [readyAt, (busy_eq_true_iff s).mpr hcnt]
  · rw [step_withInputs_cons, step_withInputs_cons, edgeState_of_busy hp hcnt, edgeState_of_busy hq hcnt]
  · rw [step_withInputs_cons, edgeState_of_busy hp hcnt]; rfl
  · have hacc : acceptedCommand p s = some (decodeWord p.word) :=
      acceptedCommand_eq_some_iff.mpr ⟨hrst, (busy_eq_false_iff s).mpr hcnt, hvalid, rfl⟩
    refine ⟨hacc, ?_⟩
    rw [step_withInputs_cons, edgeState_of_accepted hacc, exec_eq_next, execState_withInputs]
  · rcases exec_error_of_err hexec herr with ⟨-, hclear⟩ | ⟨-, hcause⟩
    · rw [hclear] at hkept; cases hkept
    · exact hcause

end Sys2Proof.Machine
end

section
/-! SUPPORT. Runs of reset edges and of idle edges, and the wait while a byte is being divided
(spec/70_reset_and_hazards.md R141, R143, R148). -/

namespace Sys2Proof.Machine

/-- Reset edges, at least one of them, leave the reset state, whatever was before (R141). -/
theorem edgesState_of_rst {ps : List PortSample} (hne : ps ≠ []) (hps : ∀ p ∈ ps, p.rst = true) (s : State) :
    edgesState ps s = State.reset.withInputs s.inputs := by
  induction ps generalizing s with
  | nil => exact absurd rfl hne
  | cons p ps ih =>
    obtain ⟨hrst, hrest⟩ := List.forall_mem_cons.mp hps
    rw [edgesState_cons, edgeState_of_rst s hrst]
    cases ps with
    | nil => rfl
    | cons q qs => exact ih (List.cons_ne_nil q qs) hrest _

/-- With nothing presented and no byte in flight, the core waits (R143). -/
theorem edgesState_of_idle {ps : List PortSample} (hps : ∀ p ∈ ps, p.rst = false ∧ p.valid = false) {s : State}
    (hcnt : s.cnt = 0#4) : edgesState ps s = s := by
  induction ps with
  | nil => rfl
  | cons p ps ih =>
    obtain ⟨⟨hrst, hvalid⟩, hrest⟩ := List.forall_mem_cons.mp hps
    have hedge : edgeState p s = s := by simp [edgeState, hrst, hvalid, (busy_eq_false_iff s).mpr hcnt]
    rw [edgesState_cons, hedge, ih hrest]

/-- While a byte is being divided nothing is accepted, whatever the host presents (R148). -/
theorem acceptedCommands_of_length_le_cnt {s : State} {ps : List PortSample} (hps : noReset ps)
    (hlen : ps.length ≤ s.cnt.toNat) : acceptedCommands ps s = [] := by
  induction ps generalizing s with
  | nil => rfl
  | cons p ps ih =>
    obtain ⟨hrst, hrest⟩ := noReset_cons.mp hps
    rw [List.length_cons] at hlen
    have hne : s.cnt ≠ 0#4 := fun hzero => by simp [hzero] at hlen
    have hpred := toNat_sub_one_of_ne_zero hne
    rw [acceptedCommands_cons, acceptedCommand_of_busy p hne, edgeState_of_busy hrst hne,
      ih hrest (by rw [divideEdge_cnt]; omega)]
    rfl

/-- Settles O1: a reset edge writes every element and accepts nothing; the reset state has CNT = 0, so it accepts at once and
waits otherwise. -/
theorem resetEdgeSetsEveryElement : Obligations.ResetEdgeSetsEveryElement := by
  refine ⟨fun s hrst => ⟨?_, acceptedCommand_of_rst s hrst, ?_⟩, fun s ps hne hps => ?_, fun p hrst hvalid => ?_,
    fun ps hps => ?_⟩
  · simp [State.cmdReady, readyAt, hrst]
  · rw [step_eq_next, edgeState_of_rst s.popInput hrst]; rfl
  · rw [runPorts_eq, edgesState_of_rst hne hps]; rfl
  · exact acceptedCommand_eq_some_iff.mpr ⟨hrst, rfl, hvalid, rfl⟩
  · rw [runPorts_eq, edgesState_of_idle hps rfl]; rfl

/-- Settles O49: each of the edges is a bit-division, which lowers CNT and writes R and SH besides. -/
theorem noAbortWhileBusy : Obligations.NoAbortWhileBusy := by
  refine ⟨fun s ps hps hlen => ⟨acceptedCommands_of_length_le_cnt hps hlen, _, runPorts_eq ps s, ?_⟩,
    fun s hinv => hinv.cnt_le⟩
  rw [edgesState_of_length_le_cnt hps hlen]
  refine ⟨iterate_divideEdge_cnt s hlen, ?_⟩
  rw [iterate_divideEdge_frame]
  exact ⟨rfl, rfl, rfl⟩

end Sys2Proof.Machine
end

section
/-! SUPPORT. The host that holds its commands (spec/70_reset_and_hazards.md R145, R150): how its port values go on after some
edges, and how many edges a command takes. -/

namespace Sys2Proof.Machine

/-- A word that encodes a command decodes to it (R59, R62). -/
@[simp] theorem decodeWord_encode (i : Instr) : decodeWord (encode i) = i :=
  (decodeWord_eq_iff _ i).mpr ⟨opField_joinFields _ _, dataField_joinFields _ _⟩

@[simp] theorem present_word (w : CmdWord) : (PortSample.present w).word = w := joinFields_opField_dataField w

@[simp] theorem presentHead_rst (ws : List CmdWord) : (presentHead ws).rst = false := by
  cases ws <;> rfl

/-- A core with CNT = 0 accepts the command the host presents (R99). -/
theorem acceptedCommand_present {s : State} (hcnt : s.cnt = 0#4) (i : Instr) :
    acceptedCommand (.present (encode i)) s = some i :=
  acceptedCommand_eq_some_iff.mpr ⟨rfl, (busy_eq_false_iff s).mpr hcnt, rfl, by simp⟩

/-! ### The host's port values -/

@[simp] theorem heldSamples_length (k : Nat) (ws : List CmdWord) (s : State) : (heldSamples k ws s).length = k := by
  induction k generalizing ws s with
  | zero => rfl
  | succ k ih => rw [heldSamples_succ, List.length_cons, ih]

theorem noReset_heldSamples (k : Nat) (ws : List CmdWord) (s : State) : noReset (heldSamples k ws s) := by
  induction k generalizing ws s with
  | zero => exact noReset_nil
  | succ k ih => rw [heldSamples_succ, noReset_cons]; exact ⟨presentHead_rst ws, ih _ _⟩

/-- The host drops one word for the command an edge accepts, and none otherwise. -/
theorem heldWords_after_edge (ws : List CmdWord) (s : State) :
    (if accepts (presentHead ws) s then ws.tail else ws) = ws.drop (acceptedCommand (presentHead ws) s).toList.length := by
  rw [acceptedCommand]
  split <;> simp

/-- After `j` edges the host goes on with the words that were not accepted, from the state those edges left. -/
theorem heldSamples_add (j k : Nat) (ws : List CmdWord) (s : State) :
    heldSamples (j + k) ws s =
      heldSamples j ws s ++
        heldSamples k (ws.drop (acceptedCommands (heldSamples j ws s) s).length) (edgesState (heldSamples j ws s) s) := by
  induction j generalizing ws s with
  | zero => simp
  | succ j ih =>
    rw [Nat.add_right_comm, heldSamples_succ, heldSamples_succ, heldWords_after_edge, ih, acceptedCommands_cons,
      List.length_append, List.drop_drop]
    rfl

/-- What the host has got accepted after fewer edges is a prefix of what it has got accepted after more. -/
theorem acceptedCommands_heldSamples_prefix {j k : Nat} (hle : j ≤ k) (ws : List CmdWord) (s : State) :
    acceptedCommands (heldSamples j ws s) s <+: acceptedCommands (heldSamples k ws s) s := by
  obtain ⟨d, rfl⟩ := Nat.exists_eq_add_of_le hle
  rw [heldSamples_add, acceptedCommands_append]
  exact List.prefix_append _ _

/-- From CNT = 0 the host's first command is accepted at the first edge, and the host goes on with the others. -/
theorem heldSamples_succ_of_ready {s : State} (hcnt : s.cnt = 0#4) (k : Nat) (i : Instr) (rest : List Instr) :
    heldSamples (k + 1) ((i :: rest).map encode) s =
      .present (encode i) :: heldSamples k (rest.map encode) (execState i s) := by
  have hacc : acceptedCommand (presentHead ((i :: rest).map encode)) s = some i := acceptedCommand_present hcnt i
  rw [heldSamples_succ, heldWords_after_edge, hacc, edgeState_of_accepted hacc]
  rfl

/-! ### Commands accepted in full -/

/-- Over exactly `k` edges from `s`, the host that holds the commands `cmds ++ rest` gets `cmds` accepted and no more, and the
last of them is complete: the state is the AStep state (R112). -/
structure HeldRun (k : Nat) (cmds rest : List Instr) (s : State) : Prop where
  accepted : acceptedCommands (heldSamples k ((cmds ++ rest).map encode) s) s = cmds
  state : edgesState (heldSamples k ((cmds ++ rest).map encode) s) s = aRun s cmds

section

variable {s : State} {rest : List Instr}

theorem heldRun_nil : HeldRun 0 [] rest s := ⟨rfl, rfl⟩

/-- Two runs of the host, one after the other. -/
theorem HeldRun.append {j k : Nat} {a b : List Instr} (ha : HeldRun j a (b ++ rest) s) (hb : HeldRun k b rest (aRun s a)) :
    HeldRun (j + k) (a ++ b) rest s := by
  have hsplit : heldSamples (j + k) ((a ++ b ++ rest).map encode) s =
      heldSamples j ((a ++ (b ++ rest)).map encode) s ++ heldSamples k ((b ++ rest).map encode) (aRun s a) := by
    rw [List.append_assoc, heldSamples_add, ha.accepted, ha.state, ← List.map_drop, List.drop_left]
  constructor
  · rw [hsplit, acceptedCommands_append, ha.accepted, ha.state, hb.accepted]
  · rw [hsplit, edgesState_append, ha.state, hb.state, aRun_append]

/-- From CNT = 0, a command that leaves the core ready takes one edge (R150). -/
theorem heldRun_of_ready {i : Instr} (hcnt : s.cnt = 0#4) (hready : (execState i s).busy = false) :
    HeldRun 1 [i] rest s := by
  have hstep : execState i s = aStep s i := by
    rw [← drained_execState hcnt, drained_of_cnt_eq_zero ((busy_eq_false_iff _).mp hready)]
  have hacc := acceptedCommand_present hcnt i
  constructor <;> rw [List.singleton_append, heldSamples_succ_of_ready hcnt]
  · rw [acceptedCommands_cons, hacc]; rfl
  · rw [edgesState_cons, edgeState_of_accepted hacc, hstep]; rfl

/-- From CNT = 0, a byte supplied to an open frame takes nine edges: the accepting edge and eight bit-divisions (R150). -/
theorem heldRun_data (hcnt : s.cnt = 0#4) (hactive : s.active = true) (b : Byte) : HeldRun 9 [.data b] rest s := by
  have hload : execState (.data b) s = loadByte b s := if_pos hactive
  have hacc := acceptedCommand_present hcnt (.data b)
  have hps := noReset_heldSamples 8 (rest.map encode) (loadByte b s)
  have hlen : (heldSamples 8 (rest.map encode) (loadByte b s)).length = 8 := heldSamples_length _ _ _
  have hbusy : (heldSamples 8 (rest.map encode) (loadByte b s)).length ≤ (loadByte b s).cnt.toNat := Nat.le_of_eq hlen
  constructor <;> rw [List.singleton_append, heldSamples_succ_of_ready hcnt, hload]
  · rw [acceptedCommands_cons, hacc, edgeState_of_accepted hacc, hload,
      acceptedCommands_of_length_le_cnt hps hbusy]
    rfl
  · rw [edgesState_cons, edgeState_of_accepted hacc, hload, edgesState_loadByte s hps hlen, aRun_cons, aRun_nil,
      aStep_data_active b hactive]

/-- AStep leaves CNT = 0 (R112). -/
theorem aStep_cnt (hcnt : s.cnt = 0#4) (i : Instr) : (aStep s i).cnt = 0#4 := by
  cases i with
  | nop d => exact hcnt
  | start d => exact hcnt
  | data b => cases hs : s.active <;> simp [aStep, hs, hcnt]
  | finish d => cases hs : s.active <;> simp [aStep, hs, hcnt]

theorem aRun_cnt (hcnt : s.cnt = 0#4) (cmds : List Instr) : (aRun s cmds).cnt = 0#4 := by
  induction cmds generalizing s with
  | nil => exact hcnt
  | cons i cmds ih => exact ih (aStep_cnt hcnt i)

/-- The bytes of a message, supplied to an open frame, take nine edges each. -/
theorem heldRun_message (hcnt : s.cnt = 0#4) (hactive : s.active = true) (m : List Byte) :
    HeldRun (9 * m.length) (m.map .data) rest s := by
  induction m generalizing s with
  | nil => exact heldRun_nil
  | cons b m ih =>
    have hbyte : aStep s (.data b) = _ := aStep_data_active b hactive
    have hrest : HeldRun (9 * m.length) (m.map .data) rest (aStep s (.data b)) :=
      ih (aStep_cnt hcnt _) (by rw [hbyte]; exact hactive)
    rw [List.length_cons, Nat.mul_succ, Nat.add_comm]
    exact (heldRun_data hcnt hactive b).append hrest

end

end Sys2Proof.Machine
end

section
/-! SUPPORT. The held frame (spec/70_reset_and_hazards.md R144, R150, R152): 9n + 2 edges, open before the last, over and
published at the last. -/

namespace Sys2Proof.Machine

section

variable {s : State} (m : List Byte)

/-- The commands of a frame before its FINISH, with the reserved field an assembler writes. -/
def frameOpening : List Instr := .start 0x00#8 :: m.map .data

theorem frameWords_eq : frameWords m = (frameOpening m ++ [Instr.finish 0x00#8]).map encode := by
  simp [frameWords, frameOpening]

theorem isFrame_frame : isFrame m (frameOpening m ++ [.finish 0x00#8]) := by
  refine ⟨0x00#8, 0x00#8, List.filter_eq_self.mpr fun i hi => ?_⟩
  simp only [frameOpening, List.mem_append, List.mem_cons, List.mem_map, List.mem_nil_iff, or_false] at hi
  rcases hi with (rfl | ⟨b, -, rfl⟩) | rfl <;> rfl

/-- START, and DATA for each byte, leave the frame open. -/
theorem aRun_frameOpening_active : (aRun s (frameOpening m)).active = true :=
  (aRun_data (startFrame_active s) m).2.1

/-- From CNT = 0, START takes one edge (R150). -/
theorem heldRun_start (hcnt : s.cnt = 0#4) (rest : List Instr) : HeldRun 1 [.start 0x00#8] rest s :=
  heldRun_of_ready hcnt (by simpa [busy_eq_false_iff] using hcnt)

/-- START and the bytes of a message take 9n + 1 edges (R150). -/
theorem heldRun_frameOpening (hcnt : s.cnt = 0#4) (rest : List Instr) :
    HeldRun (9 * m.length + 1) (frameOpening m) rest s := by
  have hmessage : HeldRun (9 * m.length) (m.map .data) rest (startFrame s) :=
    heldRun_message (s := startFrame s) hcnt rfl m
  rw [Nat.add_comm]
  exact (heldRun_start hcnt _).append hmessage

/-- A frame takes 9n + 2 edges (R150). -/
theorem heldRun_frame (hcnt : s.cnt = 0#4) :
    HeldRun (9 * m.length + 2) (frameOpening m ++ [.finish 0x00#8]) [] s := by
  have hopen : (aRun s (frameOpening m)).cnt = 0#4 := aRun_cnt hcnt _
  exact (heldRun_frameOpening m hcnt _).append (heldRun_of_ready hopen (by simpa [busy_eq_false_iff] using hopen))

/-- The state after `k` edges under the host that holds the words of one frame. -/
def heldFrameState (k : Nat) (m : List Byte) (s : State) : State := edgesState (heldSamples k (frameWords m) s) s

theorem runPorts_heldFrame (k : Nat) (m : List Byte) (s : State) :
    runPorts (heldSamples k (frameWords m) s) s = .next ((heldFrameState k m s).withInputs []) := runPorts_eq _ s

/-- At its last edge the held frame has published its checksum, and no byte is in flight. -/
theorem heldFrameState_last (hcnt : s.cnt = 0#4) :
    (heldFrameState (9 * m.length + 2) m s).Published m ∧ (heldFrameState (9 * m.length + 2) m s).cnt = 0#4 := by
  have hstate := (heldRun_frame m hcnt).state
  rw [List.append_nil, ← frameWords_eq] at hstate
  rw [heldFrameState, hstate]
  exact ⟨aRun_frame s (isFrame_frame m), aRun_cnt hcnt _⟩

/-- At the edge before its last the held frame has got everything but FINISH accepted. -/
theorem acceptedCommands_heldFrame_opening (hcnt : s.cnt = 0#4) :
    acceptedCommands (heldSamples (9 * m.length + 1) (frameWords m) s) s = frameOpening m := by
  rw [frameWords_eq]
  exact (heldRun_frameOpening m hcnt _).accepted

/-- What the held frame has got accepted at an edge before its last opens a frame: START and some of the bytes. -/
theorem acceptedCommands_heldFrame {k : Nat} (hcnt : s.cnt = 0#4) (hpos : 1 ≤ k) (hle : k ≤ 9 * m.length + 1) :
    ∃ l, acceptedCommands (heldSamples k (frameWords m) s) s = frameOpening l := by
  have hfirst : acceptedCommands (heldSamples 1 (frameWords m) s) s = [.start 0x00#8] := by
    rw [frameWords_eq]
    exact (heldRun_start hcnt _).accepted
  have hlower := acceptedCommands_heldSamples_prefix hpos (frameWords m) s
  have hupper := acceptedCommands_heldSamples_prefix hle (frameWords m) s
  rw [hfirst] at hlower
  rw [acceptedCommands_heldFrame_opening m hcnt] at hupper
  obtain ⟨cmds, hcmds⟩ := hlower
  rw [← hcmds] at hupper ⊢
  obtain ⟨l, -, rfl⟩ := List.prefix_map_iff.mp (List.cons_prefix_cons.mp hupper).2
  exact ⟨l, rfl⟩

/-- From the edge that accepts START up to the last before FINISH, the held frame is open. -/
theorem heldFrameState_active {k : Nat} (hcnt : s.cnt = 0#4) (hpos : 1 ≤ k) (hle : k ≤ 9 * m.length + 1) :
    (heldFrameState k m s).active = true := by
  obtain ⟨l, hcmds⟩ := acceptedCommands_heldFrame m hcnt hpos hle
  rw [heldFrameState, ← drained_active, drained_edgesState (noReset_heldSamples _ _ _), hcmds]
  exact aRun_frameOpening_active l

end

/-- A published result is one the host may use (R146). -/
theorem State.Published.resultUsable {s : State} {m : List Byte} (h : s.Published m) : s.resultUsable = true := by
  simp [State.resultUsable, h.done, h.err]

theorem frameOver_iff (s : State) :
    s.frameOver = true ↔ s.cnt = 0#4 ∧ s.active = false ∧ (s.done = true ∨ s.err = true) := by
  simp [State.frameOver, busy_eq_false_iff, and_assoc]

/-- A protocol error ends a run without an open frame (R152). -/
theorem protocolError_frameOver (c : BitVec 2) {s : State} (hcnt : s.cnt = 0#4) (hidle : s.active = false) :
    (protocolError c s).frameOver = true :=
  (frameOver_iff _).mpr ⟨hcnt, hidle, .inr rfl⟩

/-- Settles O48: DATA in an open frame is the one command that leaves the core busy; the held frame is START and n bytes after
9n + 1 edges, and FINISH takes one more. -/
theorem edgeCounts : Obligations.EdgeCounts := by
  refine ⟨fun i s t ps hcnt hexec hps => ⟨fun hdata u hrun => ?_, fun hother => ?_⟩, fun s m hcnt => ⟨?_, ?_, ?_, ?_⟩⟩
  · obtain ⟨hop, hactive⟩ := hdata
    obtain ⟨b, rfl⟩ : ∃ b, i = .data b := ⟨i.field, Instr.ext_fields hop rfl⟩
    rw [exec_data_active b hactive] at hexec
    cases hexec
    rw [runPorts_eq] at hrun
    cases hrun
    rw [readyAt_idle, withInputs_busy]
    refine ⟨fun hlen => ?_, fun hlen => ?_⟩
    · rw [edgesState_loadByte_busy s b hps hlen]; rfl
    · rw [edgesState_loadByte s hps hlen]; rfl
  · rw [exec_eq_next] at hexec
    cases hexec
    rw [readyAt_idle, Bool.not_eq_true', ← Bool.not_eq_true, execState_busy_iff hcnt]
    rintro ⟨hactive, b, rfl⟩
    exact hother ⟨rfl, hactive⟩
  · exact acceptedCommands_heldFrame_opening m hcnt
  · have haccepted := (heldRun_frame m hcnt).accepted
    rwa [List.append_nil, ← frameWords_eq] at haccepted
  · exact heldSamples_length _ _ _
  · obtain ⟨hpub, -⟩ := heldFrameState_last m hcnt
    exact ⟨_, runPorts_heldFrame _ m s, hpub.result, hpub.done⟩

/-- Settles O51: the reset edges leave the reset state, which has CNT = 0, and the held frame publishes from every such state. -/
theorem bootThenFrameGivesTheChecksum : Obligations.BootThenFrameGivesTheChecksum := by
  refine ⟨fun s rs m hne hrs => ?_, fun s m hcnt => ?_⟩
  · obtain ⟨hpub, hidle⟩ := heldFrameState_last m (s := State.reset) rfl
    have hword : (heldFrameState (9 * m.length + 2) m State.reset).resWord = swap16 (complement (rawCRC m)) := hpub.result
    have hrun : runPorts (rs ++ heldSamples (9 * m.length + 2) (frameWords m) State.reset) s =
        .next ((heldFrameState (9 * m.length + 2) m State.reset).withInputs []) := by
      rw [runPorts_eq, edgesState_append, edgesState_of_rst hne hrs, edgesState_withInputs]; rfl
    refine ⟨_, hrun, hpub.resultUsable, hword, ?_, ?_, hidle⟩
    · rw [State.firstByte, withInputs_resWord, hword, swap16_highByte]
    · rw [State.secondByte, withInputs_resWord, hword, swap16_lowByte]
  · obtain ⟨hpub, hidle⟩ := heldFrameState_last m hcnt
    exact ⟨_, runPorts_heldFrame _ m s, hpub.resultUsable, hpub.result, hidle⟩

/-- Settles O52: the held frame is open up to the edge before its last, where it is published; a protocol error is over at once. -/
theorem runEndsAtTheLastEdge : Obligations.RunEndsAtTheLastEdge := by
  refine ⟨frameOver_iff, fun s t m k hcnt hpos hle hrun => ?_, fun s m hcnt => ?_, fun b s hcnt hidle => ⟨?_, ?_⟩⟩
  · rw [runPorts_heldFrame] at hrun
    cases hrun
    have hopen := heldFrameState_active m hcnt hpos hle
    simp [State.frameOver, hopen]
  · obtain ⟨hpub, hidle⟩ := heldFrameState_last m hcnt
    exact ⟨_, runPorts_heldFrame _ m s, (frameOver_iff _).mpr ⟨hidle, hpub.active, .inl hpub.done⟩, hpub.done, hpub.err,
      hpub.result⟩
  · exact ⟨_, exec_data_idle b hidle, protocolError_frameOver _ hcnt hidle⟩
  · exact ⟨_, exec_finish_idle b hidle, protocolError_frameOver _ hcnt hidle⟩

end Sys2Proof.Machine
end

section
/-! SUPPORT. The command encoding, both ways, and what ignores CW[7:0] (spec/30_encoding.md R59 to R64). -/

namespace Sys2Proof

/-- No command is illegal, whatever its fields hold (R63, R64). -/
@[simp] theorem Instr.wellFormed_eq_true (i : Instr) : i.wellFormed = true := by
  cases i <;> rfl

/-- Decoding keeps both fields, so encoding gives the word back (R59, R60). -/
@[simp] theorem encode_decodeWord (w : CmdWord) : encode (decodeWord w) = w := by
  rw [encode, decodeWord_op, decodeWord_field, joinFields_opField_dataField]

theorem decodeBits_of_lt {v : Nat} (hv : v < 1024) : decodeBits v = .ok (decodeWord (BitVec.ofNat 10 v)) := if_pos hv

theorem decodeBits_of_le {v : Nat} (hv : 1024 ≤ v) : decodeBits v = .error .notACommandWord :=
  if_neg (Nat.not_lt.mpr hv)

/-- A table word that decodes is read as the command word of its low bits. -/
theorem eq_decodeWord_of_decodeTableWord {nbits w : Nat} {i : Instr} (h : decodeTableWord nbits w = some i) :
    i = decodeWord (BitVec.ofNat 10 (w % 2 ^ nbits)) := by
  rw [decodeTableWord] at h
  rcases Nat.lt_or_ge (w % 2 ^ nbits) 1024 with hlt | hge
  · rw [decodeBits_of_lt hlt] at h
    exact (Option.some.inj h).symm
  · rw [decodeBits_of_le hge] at h
    cases h

namespace Machine

/-- A command that is not DATA does not read its data field (R64). -/
theorem execState_eraseField {i : Instr} (hop : i.op ≠ 0b10#2) (s : State) :
    execState (eraseField i) s = execState i s := by
  cases i with
  | nop d => rfl
  | start d => rfl
  | data b => exact absurd rfl hop
  | finish d => rfl

/-- Apart from DATA, an edge does not read the data port (R64). -/
theorem edgeState_data_ignored {p : PortSample} (hop : p.op ≠ 0b10#2) (d : Byte) (s : State) :
    edgeState { p with data := d } s = edgeState p s := by
  have hword (q : PortSample) (hq : q.op = p.op) :
      execState (decodeWord q.word) s = execState (eraseField (decodeWord p.word)) s := by
    have herase : eraseField (decodeWord q.word) = eraseField (decodeWord p.word) :=
      eraseField_eq_of_op_eq (by simp [hq])
    rw [← herase, execState_eraseField (by simpa [hq] using hop)]
  rw [edgeState, edgeState, hword p rfl, hword { p with data := d } rfl]

/-- Settles O7: a word and a command both are their two fields. -/
theorem decodeEncodeRoundTrip : Obligations.DecodeEncodeRoundTrip :=
  ⟨fun i _ => decodeWord_encode i, fun w => ⟨Instr.wellFormed_eq_true _, encode_decodeWord w⟩⟩

/-- Settles O10: only DATA reads the data port. -/
theorem reservedDataFieldIgnored : Obligations.ReservedDataFieldIgnored := by
  refine ⟨fun s p d ps hop => ?_, fun s d => ⟨rfl, rfl, rfl⟩⟩
  rw [step_withInputs_cons, step_withInputs_cons, edgeState_data_ignored hop]

/-- Settles O9: the words one by one, and the decoder's own bound. -/
theorem writtenOutWordsDecode : Obligations.WrittenOutWordsDecode := by
  refine ⟨by decide, by decide, by decide, by decide, by decide, by decide, fun v => ⟨fun ⟨i, hi⟩ => ?_, fun hv => ?_⟩⟩
  · by_contra hv
    rw [decodeBits_of_le (Nat.not_lt.mp hv)] at hi
    cases hi
  · exact ⟨_, decodeBits_of_lt hv⟩

/-- The command presented at CNT = 0 is accepted at the very next edge (R99). -/
theorem step_presentNext (s : State) (w : CmdWord) :
    step (presentNext s w) = exec (decodeWord w) { s with cnt := 0#4, inputs := s.inputs.tail } := by
  have hacc : acceptedCommand (.present w) (presentNext s w).popInput = some (decodeWord w) :=
    acceptedCommand_eq_some_iff.mpr ⟨rfl, rfl, rfl, by rw [present_word]⟩
  rw [step_eq_next, exec_eq_next]
  exact congrArg _ (edgeState_of_accepted hacc)

/-- Settles O6: the word placed is presented at CNT = 0. -/
theorem withFetchWordRunsTheWord : Obligations.WithFetchWordRunsTheWord := by
  intro s nbits w i hdecode
  rw [eq_decodeWord_of_decodeTableWord hdecode]
  exact step_presentNext s _

end Machine

end Sys2Proof
end

section
/-! SUPPORT. The division over GF(2) (spec/40_division.md R84): the loop adds a multiple of the generator, and undoes the
addition of any. -/

namespace Sys2Proof.Machine

/-- The product reads the low `k` bits of its first factor only. -/
theorem polyMul_congr {k a a' : Nat} (b : Nat) (hbits : ∀ i < k, a.testBit i = a'.testBit i) :
    polyMul k a b = polyMul k a' b := by
  induction k with
  | zero => rfl
  | succ k ih => rw [polyMul, polyMul, ih fun i hi => hbits i (by omega), hbits k (by omega)]

/-- A product with the generator, which has degree 16, has degree below `k + 16`. -/
theorem polyMul_generator_lt (k q : Nat) : polyMul k q generator17 < 2 ^ (k + 16) := by
  induction k with
  | zero => exact Nat.two_pow_pos _
  | succ k ih =>
    have hshift : generator17 <<< k < 2 ^ (k + 1 + 16) := by
      rw [Nat.shiftLeft_eq, Nat.add_assoc, Nat.pow_add, Nat.mul_comm]
      exact Nat.mul_lt_mul_of_pos_left (by decide) (Nat.two_pow_pos k)
    have hterm : (if q.testBit k then generator17 <<< k else 0) < 2 ^ (k + 1 + 16) := by
      split
      · exact hshift
      · exact Nat.two_pow_pos _
    exact Nat.xor_lt_two_pow (ih.trans (Nat.pow_lt_pow_right (by decide) (by omega))) hterm

/-- What the loop takes off is a multiple of the generator: its quotient collects the bits the turns found set. -/
theorem exists_polyMul_xor_longDivLoop (k v : Nat) :
    ∃ q < 2 ^ k, polyMul k q generator17 ^^^ longDivLoop k v = v := by
  induction k generalizing v with
  | zero => exact ⟨0, by decide, Nat.zero_xor v⟩
  | succ k ih =>
    obtain ⟨q, hq, hdiv⟩ := ih (if v.testBit (k + 16) then v ^^^ (generator17 <<< k) else v)
    have hbits (i : Nat) := Nat.testBit_two_pow_mul_add (v.testBit (k + 16)).toNat hq i
    refine ⟨2 ^ k * (v.testBit (k + 16)).toNat + q, ?_, ?_⟩
    · rw [Nat.pow_succ]
      cases v.testBit (k + 16) <;> simp <;> omega
    · have hlow : polyMul k (2 ^ k * (v.testBit (k + 16)).toNat + q) generator17 = polyMul k q generator17 :=
        polyMul_congr _ fun i hi => by rw [hbits, if_pos hi]
      have htop : (2 ^ k * (v.testBit (k + 16)).toNat + q).testBit k = v.testBit (k + 16) := by
        rw [hbits]; cases v.testBit (k + 16) <;> simp
      rw [polyMul, longDivLoop, hlow, htop, Nat.xor_right_comm, hdiv]
      cases v.testBit (k + 16) <;> simp

/-- The loop takes a multiple of the generator off again and leaves the sixteen bits added to it: at each turn the bit under
test is the multiplier's. -/
theorem longDivLoop_polyMul_xor (k q : Nat) (r : Word) :
    longDivLoop k (polyMul k q generator17 ^^^ r.toNat) = r.toNat := by
  induction k with
  | zero => exact Nat.zero_xor _
  | succ k ih =>
    have hlower : (polyMul k q generator17).testBit (k + 16) = false := Nat.testBit_lt_two_pow (polyMul_generator_lt k q)
    have hr : r.toNat.testBit (k + 16) = false := BitVec.getLsbD_of_ge r _ (by omega)
    have hlead : (generator17 <<< k).testBit (k + 16) = true := by
      rw [Nat.testBit_shiftLeft, Nat.add_sub_cancel_left]
      simp [generator17, Nat.testBit]
    rw [polyMul, longDivLoop]
    cases hq : q.testBit k
    · simp [hlower, hr, ih]
    · simp only [Nat.testBit_xor, hlower, hr, hlead, if_true, Bool.false_xor, Bool.xor_false]
      rw [Nat.xor_right_comm, Nat.xor_xor_cancel_right, ih]

/-- Settles O20: the loop's result is the raw CRC, it differs from the dividend by a multiple of g, and from any such
decomposition the loop recovers the remainder. -/
theorem rawChecksumIsThePolynomialRemainder : Obligations.RawChecksumIsThePolynomialRemainder := by
  intro m
  have hloop := longDivLoop_messageNumber m
  refine ⟨hloop ▸ (rawCRC m).isLt, hloop ▸ exists_polyMul_xor_longDivLoop _ _, fun q r _ hr => ?_⟩
  apply BitVec.eq_of_toNat_eq
  rw [← hloop, ← hr]
  exact (longDivLoop_polyMul_xor _ q r).symm

end Sys2Proof.Machine
end

section
/-! SUPPORT. Completion and the invariants of a step (spec/60_exceptions.md R127, spec/10_state.md R40). -/

namespace Sys2Proof.Machine

/-- No number of edges stops the core (R127). -/
theorem core_run_completes (n : Nat) (s : State) : ∃ t, Host.Core.run Sys2Proof.core n s = .next t := by
  induction n generalizing s with
  | zero => exact ⟨s, rfl⟩
  | succ n ih => rw [core_run_succ n (step_eq_next s)]; exact ih _

/-- Settles O4: a command and a step always answer a next state. -/
theorem everyEdgeAndCommandCompletes : Obligations.EveryEdgeAndCommandCompletes :=
  ⟨fun i s => ⟨_, exec_eq_next i s⟩, core_run_completes⟩

/-- Settles O38: a step is an edge with the host moved on by one. -/
theorem everyStepKeepsTheInvariants : Obligations.EveryStepKeepsTheInvariants := by
  intro s t hinv hstep
  rw [step_eq_next] at hstep
  cases hstep
  exact inv_edgeState (inv_withInputs hinv s.inputs.tail) s.port

/-- Settles O39: a reset edge leaves the reset state as it is. -/
theorem resetStateMeetsTheInvariants : Obligations.ResetStateMeetsTheInvariants := inv_resetEdge State.reset

end Sys2Proof.Machine
end

section
/-! SUPPORT. What each command leaves unchanged, the writers of the registers, and what the outputs show (spec/10_state.md
sections 1, 4 and 5). -/

namespace Sys2Proof.Machine

/-- Settles O18: the outputs are functions of the elements named, and `finalWord` is its own inverse. -/
theorem remainderIsHiddenUntilFinish : Obligations.RemainderIsHiddenUntilFinish := by
  refine ⟨finalWord_finalWord, fun s u hbusy hactive hdone herr hcause hresult => ⟨?_, hresult, ?_, fun p => ?_⟩,
    fun s u s' u' a b hs hu hexec hexec' => ?_⟩
  · simp only [State.statusWord, hbusy, hactive, hdone, herr, hcause]
  · simp only [State.flagPorts, hbusy, hactive, hdone, herr]
  · simp only [readyAt, hbusy]
  · rw [exec_finish_active a hs] at hexec
    rw [exec_finish_active b hu] at hexec'
    cases hexec
    cases hexec'
    exact finalWord_inj

/-- Settles O32, over everything a command can do. -/
theorem commandFrames : Obligations.CommandFrames := by
  intro i s t hexec
  rcases exec_cases hexec with
    ⟨d, rfl, rfl⟩ | ⟨d, rfl, rfl⟩ | ⟨b, rfl, hactive, rfl⟩ | ⟨b, rfl, hidle, rfl⟩ | ⟨d, rfl, hactive, rfl⟩ |
      ⟨d, rfl, hidle, rfl⟩
  · simp [Instr.op]
  · simp [Instr.op]
  · simp [Instr.op, hactive]
  · simp [Instr.op, hidle]
  · simp [Instr.op, hactive]
  · simp [Instr.op, hidle]

section

variable (p : PortSample) (s : State)

/-- The value an edge leaves in any element: the reset's, the bit-division's, or the accepted command's, in this order. -/
theorem edgeState_field {α : Type} (field : State → α) :
    field (edgeState p s) =
      if p.rst then field (resetEdge s) else if s.busy then field (divideEdge s)
      else (acceptedCommand p s).elim (field s) fun i => field (execState i s) := by
  rcases edgeState_accepted_cases p s with
    ⟨hrst, -, ht⟩ | ⟨hrst, hbusy, -, ht⟩ | ⟨hrst, hidle, hacc, ht⟩ | ⟨hrst, hidle, i, hacc, ht⟩
  · simp [hrst, ht]
  · simp [hrst, hbusy, ht]
  · simp [hrst, hidle, hacc, ht]
  · simp [hrst, hidle, hacc, ht]

/-! ### What DATA and FINISH leave in R, SH and RESULT -/

@[simp] theorem execState_data_r (b : Byte) : (execState (.data b) s).r = s.r := by
  cases hs : s.active <;> simp [execState, hs]

@[simp] theorem execState_data_sh (b : Byte) : (execState (.data b) s).sh = if s.active then b else s.sh := by
  cases hs : s.active <;> simp [execState, hs]

@[simp] theorem execState_data_result (b : Byte) : (execState (.data b) s).result = s.result := by
  cases hs : s.active <;> simp [execState, hs]

@[simp] theorem execState_finish_r (d : Byte) : (execState (.finish d) s).r = s.r := by
  cases hs : s.active <;> simp [execState, hs]

@[simp] theorem execState_finish_sh (d : Byte) : (execState (.finish d) s).sh = s.sh := by
  cases hs : s.active <;> simp [execState, hs]

@[simp] theorem execState_finish_result (d : Byte) :
    (execState (.finish d) s).result = if s.active then finalWord s.r else s.result := by
  cases hs : s.active <;> simp [execState, hs]

end

/-- Settles O34: each register's next value is that of the reset, of the bit-division or of the accepted command; a
bit-division does not write RESULT, and a command is accepted at CNT = 0 only. -/
theorem registerWriters : Obligations.RegisterWriters := by
  intro s t hstep
  rw [step_eq_next] at hstep
  cases hstep
  have hwritten {α : Type} (register : State → α) := edgeState_field s.port s.popInput register
  refine ⟨edgeState_inputs _ _, (hwritten State.r).trans ?_, (hwritten State.sh).trans ?_, (hwritten State.cnt).trans ?_,
    (edgeState_field_of_divideEdge s.port s.popInput State.result fun _ => rfl).trans ?_⟩ <;>
    rw [acceptedCommand_popInput]
  · rcases acceptedCommand s.port s with _ | ⟨_ | _ | _ | _⟩ <;> simp [State.nextBit, initialRemainder]
  · rcases acceptedCommand s.port s with _ | ⟨_ | _ | _ | _⟩ <;> simp <;> rfl
  · rw [popInput_busy]
    cases hbusy : s.busy
    · have hcnt : s.cnt = 0#4 := (busy_eq_false_iff s).mp hbusy
      rcases acceptedCommand s.port s with _ | ⟨_ | _ | _ | _⟩ <;> simp [hcnt]
    · simp
  · rcases acceptedCommand s.port s with _ | ⟨_ | _ | _ | _⟩ <;> simp
    rfl

end Sys2Proof.Machine
end

section
/-! SUPPORT. Runs: the idle core, the state as a function of the accepted commands, and the published result
(spec/60_exceptions.md section 4, spec/70_reset_and_hazards.md section 3). -/

namespace Sys2Proof.Machine

/-- Settles O50: an idle edge with CNT = 0 changes nothing. -/
theorem idleCoreHoldsItsState : Obligations.IdleCoreHoldsItsState := by
  refine ⟨fun s ps hcnt hps => ?_, fun s => rfl⟩
  rw [runPorts_eq, edgesState_of_idle hps hcnt]

/-- From CNT = 0 to CNT = 0 a run without reset is AStep over its accepted commands (R112). -/
theorem edgesState_eq_aRun {ps : List PortSample} (hps : noReset ps) {s : State} (hcnt : s.cnt = 0#4)
    (hend : (edgesState ps s).cnt = 0#4) : edgesState ps s = aRun s (acceptedCommands ps s) := by
  rw [← drained_of_cnt_eq_zero hend, drained_edgesState hps, drained_of_cnt_eq_zero hcnt]

/-- Settles O54: both ends are AStep over the same commands. -/
theorem acceptedSequenceDeterminesTheState : Obligations.AcceptedSequenceDeterminesTheState := by
  intro s t v ps qs hcnt _ hps hqs hsame hrun hrun' ht hv
  rw [runPorts_eq] at hrun hrun'
  cases hrun
  cases hrun'
  rw [edgesState_eq_aRun hps hcnt ht, edgesState_eq_aRun hqs hcnt hv, hsame]

/-- Without FINISH, AStep leaves RESULT (R31). -/
theorem aRun_result_of_no_finish {s : State} {cmds : List Instr} (hcmds : ∀ i ∈ cmds, i.op ≠ 0b11#2) :
    (aRun s cmds).result = s.result := by
  induction cmds generalizing s with
  | nil => rfl
  | cons i cmds ih =>
    obtain ⟨hi, hrest⟩ := List.forall_mem_cons.mp hcmds
    rw [aRun_cons, ih hrest]
    cases i with
    | nop d => rfl
    | start d => rfl
    | data b => cases hs : s.active <;> simp [aStep, hs]
    | finish d => exact absurd rfl hi

/-- With no frame open and no START, every command is a NOP or a protocol error, so AStep leaves RESULT and DONE. -/
theorem aRun_published_of_no_start {s : State} {cmds : List Instr} (hidle : s.active = false)
    (hcmds : ∀ i ∈ cmds, i.op ≠ 0b01#2) : (aRun s cmds).result = s.result ∧ (aRun s cmds).done = s.done := by
  induction cmds generalizing s with
  | nil => exact ⟨rfl, rfl⟩
  | cons i cmds ih =>
    obtain ⟨hi, hrest⟩ := List.forall_mem_cons.mp hcmds
    rw [aRun_cons]
    cases i with
    | nop d => exact ih hidle hrest
    | start d => exact absurd rfl hi
    | data b =>
      have hstep : aStep s (.data b) = protocolError causeDataIdle s := by simp [aStep, hidle]
      rw [hstep]; exact ih hidle hrest
    | finish d =>
      have hstep : aStep s (.finish d) = protocolError causeFinishIdle s := by simp [aStep, hidle]
      rw [hstep]; exact ih hidle hrest

/-- Settles O55: a bit-division writes neither element, so the accepted commands decide; DONE = 1 leaves no frame open. -/
theorem publishedResultIsStable : Obligations.PublishedResultIsStable := by
  refine ⟨fun s ps hps hcmds => ⟨_, runPorts_eq ps s, ?_⟩, fun s ps hinv hdone hps hcmds => ⟨_, runPorts_eq ps s, ?_⟩⟩
  · rw [withInputs_result, ← drained_result, drained_edgesState hps, aRun_result_of_no_finish hcmds, drained_result]
  · have hidle : s.drained.active = false := (drained_active s).trans (hinv.done_idle hdone)
    obtain ⟨hresult, hkept⟩ := aRun_published_of_no_start hidle hcmds
    rw [withInputs_result, withInputs_done, withInputs_active, ← drained_result, ← drained_done, ← drained_active,
      drained_edgesState hps]
    exact ⟨hresult.trans (drained_result s), (hkept.trans (drained_done s)).trans hdone,
      aRun_active_of_no_start hidle hcmds⟩

end Sys2Proof.Machine
end
